-- ==== Sys2Proof/Word.lean ====
section
/-! DEFINITION. The word types of the engine (00_scope.md R7, R8): a word is 32 bits, a byte 8 bits, a digest 160
bits; and the register file of five words that H and the working copy d both are (10_state.md R31, R40). -/

namespace Sys2Proof

/-- An unsigned 32-bit word (00_scope.md R8). -/
abbrev Word := BitVec 32

/-- An unsigned byte (00_scope.md R8); bit 7 is the most significant (30_encoding.md R106). -/
abbrev Byte := BitVec 8

/-- The 160-bit value of the response's digest field (30_encoding.md R108). -/
abbrev Digest := BitVec 160

/-- Five words, numbered 0 to 4: the shape of DigestState H (10_state.md R31) and of the working copy d (R40). -/
structure Words5 where
  w0 : Word
  w1 : Word
  w2 : Word
  w3 : Word
  w4 : Word
deriving DecidableEq, Repr, Inhabited

end Sys2Proof
end

