-- ==== Sys2Proof/Syntax.lean ====
section
/-! DEFINITION. The engine's instructions are the commands at its command port (00_scope.md R1, 30_encoding.md R103):
one constructor for each row of the opcode table (30_encoding.md R113). -/

namespace Sys2Proof

/-- A decoded command. -/
inductive Instr where
  /-- UPDATE with its byte count LEN; that many data beats follow on the data channel (40_update.md R145). -/
  | update (len : BitVec 30)
  /-- FINISH (41_finalize.md R175). -/
  | finish
  /-- GET (41_finalize.md R180). -/
  | get
  /-- A word that no other row matches, kept whole (30_encoding.md R110). -/
  | illegal (word : BitVec 32)
deriving DecidableEq, Repr

end Sys2Proof
end

