-- ==== Sys2Proof/WellFormed.lean ====
section
/-! DEFINITION. Which commands are the decoding of some command word. Only `illegal` has a condition: it stands for the
words of 30_encoding.md R110 and for no other. UPDATE's LEN is well formed by its type (30_encoding.md R104). -/

namespace Sys2Proof

/-- The three kinds of illegal word (30_encoding.md R110): OP = 0b11 with any LEN; OP = 0b01 or 0b10 with LEN not 0. -/
def illegalWord (word : BitVec 32) : Bool :=
  match (word.extractLsb' 30 2).toNat with
  | 0 => false
  | 3 => true
  | _ => word.extractLsb' 0 30 != 0

/-- The well-formed commands. -/
def Instr.wf : Instr → Bool
  | .update _ => true
  | .finish => true
  | .get => true
  | .illegal word => illegalWord word

end Sys2Proof
end

