-- ==== Sys2Proof/Decode.lean ====
section
/-! DEFINITION. The decoder and the encoder of command words (30_encoding.md R103, R104, R109, R113).
Decoding is total on the 2^32 command words (R109); over a byte-wide bus it is total on byte lists and rejects by
name a list that is shorter than one command word. -/

namespace Sys2Proof

/-- The OP field, cmd_word[31:30] (30_encoding.md R104). -/
def opField (word : BitVec 32) : BitVec 2 := word.extractLsb' 30 2

/-- The LEN field, cmd_word[29:0] (30_encoding.md R104): an unsigned count, never extended by sign, scaled or shifted
(R105). -/
def lenField (word : BitVec 32) : BitVec 30 := word.extractLsb' 0 30

/-- One row of the opcode map (30_encoding.md R113). -/
structure OpcodeRow where
  mnemonic : String
  pattern : BitVec 32
  mask : BitVec 32
deriving DecidableEq, Repr

/-- A word matches a row when its bits under the mask are the row's (30_encoding.md R113). -/
def OpcodeRow.matches (row : OpcodeRow) (word : BitVec 32) : Bool := word &&& row.mask == row.pattern

/-- The opcode map in its order (30_encoding.md R113); the first row that matches wins. -/
def opcodeMap : List OpcodeRow :=
  [ ⟨"UPDATE", 0x00000000, 0xC0000000⟩,
    ⟨"FINISH", 0x40000000, 0xFFFFFFFF⟩,
    ⟨"GET", 0x80000000, 0xFFFFFFFF⟩,
    ⟨"ILLEGAL", 0x00000000, 0x00000000⟩ ]

/-- The decoder, in the order of 30_encoding.md R109. -/
def decode (word : BitVec 32) : Instr :=
  if opField word = 0b00 then .update (lenField word)
  else if opField word = 0b01 ∧ lenField word = 0 then .finish
  else if opField word = 0b10 ∧ lenField word = 0 then .get
  else .illegal word

/-- Why a byte list holds no command. -/
inductive DecodeError where
  /-- Fewer than the four bytes of a command word. -/
  | truncated
deriving DecidableEq, Repr

/-- The command word that four bytes of a byte-wide bus carry, cmd_word[31:24] first (30_encoding.md R104). -/
def wordOfBytes (b0 b1 b2 b3 : Byte) : BitVec 32 := b0 ++ b1 ++ b2 ++ b3

/-- The decoder over a byte-wide bus: the command and the bytes after it. -/
def decodeBytes : List Byte → Except DecodeError (Instr × List Byte)
  | b0 :: b1 :: b2 :: b3 :: rest => .ok (decode (wordOfBytes b0 b1 b2 b3), rest)
  | _ => .error .truncated

/-- The command word of its two fields, OP above LEN (30_encoding.md R104). -/
def packWord (op : BitVec 2) (len : BitVec 30) : BitVec 32 := op ++ len

/-- The word of a command (30_encoding.md R103, R104). -/
def encode : Instr → BitVec 32
  | .update len => packWord 0b00 len
  | .finish => packWord 0b01 0
  | .get => packWord 0b10 0
  | .illegal word => word

/-- The four bytes of a command word on a byte-wide bus, most significant first (30_encoding.md R104). -/
def encodeBytes (i : Instr) : List Byte :=
  [ (encode i).extractLsb' 24 8, (encode i).extractLsb' 16 8,
    (encode i).extractLsb' 8 8, (encode i).extractLsb' 0 8 ]

/-- The command word of `w`'s low `nbits` bits. -/
def tableWord (nbits w : Nat) : BitVec 32 := BitVec.ofNat 32 (w % 2 ^ nbits)

/-- What the decoder reads from a word of the opcode table. A command word has 32 bits (30_encoding.md R104). -/
def decodeTableWord (nbits w : Nat) : Option Instr :=
  if nbits ≤ 32 then some (decode (tableWord nbits w)) else none

end Sys2Proof
end

