-- ==== Sys2Proof/Config.lean ====
section
/-! DEFINITION. What the spec fixes for the engine (00_scope.md R7), its two open parameters (BUF_RESET and the cycle
counts), and the free values of what it leaves unspecified. -/

namespace Sys2Proof.Config

/-- BLOCK_BYTES: the size of the accumulation buffer in bytes (00_scope.md R7, 20_memory.md R70). -/
def blockBytes : Nat := 64

/-- BLOCK_WORDS: the big-endian words of a block (00_scope.md R7). -/
def blockWords : Nat := 16

/-- SCHEDULE_WORDS and ROUNDS: 80 words, one for each round (00_scope.md R7). -/
def rounds : Nat := 80

/-- The rounds of one round group (00_scope.md R7, 42_compression.md R205). -/
def groupRounds : Nat := 20

/-- LENGTH_FIELD_OFFSET: the buffer byte at which the length field starts (00_scope.md R7). -/
def lengthFieldOffset : Nat := 56

/-- The largest LEN of one UPDATE, 2^30 - 1 (30_encoding.md R104). -/
def maxUpdateLength : Nat := 2 ^ 30 - 1

/-- BUF_RESET (10_state.md R47, R48): what a buffer byte that nothing has written since reset reads as.
DESIGN CHOICE (log entry 2): zero in every byte. -/
def bufReset (_address : Nat) : Byte := 0

/-- FREE VALUE (log entry 4): what d holds once the block compression that is `draw`-th to end has ended
(10_state.md R40, 92_eei_decisions.md D24). Nothing is known of it. -/
opaque hiddenD (draw : Nat) : Words5

/-- FREE VALUE (log entry 4): what the schedule window Q holds after that block compression (10_state.md R41). -/
opaque hiddenQ (draw : Nat) : Vector Word 16

/-- FREE VALUE (log entry 4): what the round counter t holds after that block compression (10_state.md R42). -/
opaque hiddenT (draw : Nat) : BitVec 7

/-- T_ABSORB: clock edges of one data beat, reference value (70_reset_and_hazards.md R300). -/
def tAbsorb : Nat := 1

/-- T_ROUND: clock edges of one round, reference value (70_reset_and_hazards.md R300). -/
def tRound : Nat := 1

/-- T_BLOCK: clock edges of one block compression: load, the 80 rounds, feed-forward (70_reset_and_hazards.md R300). -/
def tBlock : Nat := 82

/-- T_PAD for FILL <= 55: a FINISH with one block compression (70_reset_and_hazards.md R300). -/
def tPadOneBlock : Nat := 86

/-- T_PAD for FILL >= 56: a FINISH with two block compressions (70_reset_and_hazards.md R300). -/
def tPadTwoBlocks : Nat := 169

end Sys2Proof.Config
end

