-- ==== Sys2Proof/Machine/Rom.lean ====
section
/-! DEFINITION. The ROM of the engine: the initial value IV (10_state.md R32) and the round constants K (10_state.md
R39, 42_compression.md R207). Nothing else is stored in ROM. -/

namespace Sys2Proof.Machine

/-- IV[0..4], the SHA-1 fixed constants that reset loads into H (10_state.md R32). -/
def iv : Words5 := ⟨0x67452301, 0xEFCDAB89, 0x98BADCFE, 0x10325476, 0xC3D2E1F0⟩

/-- K_g, the additive constant of round group g (42_compression.md R207). -/
def roundConstant : Nat → Word
  | 0 => 0x5A827999
  | 1 => 0x6ED9EBA1
  | 2 => 0x8F1BBCDC
  | _ => 0xCA62C1D6

end Sys2Proof.Machine
end

