-- ==== Sys2Proof/Machine/State.lean ====
section
/-! DEFINITION. The state of the engine as plain data: the architectural state (10_state.md R30), the hidden working
state of a block compression (R40 to R42), the sequencer's registers (R45), the input pins with what the host offers
on them (30_encoding.md R101), and what the host has received. Reset values: 10_state.md R47. -/

namespace Sys2Proof.Machine

/-- The accumulation buffer BUF (10_state.md R33, 20_memory.md R70) as its written bytes: addresses strictly rising,
all below 64, no entry equal to what an unlisted address reads as (`Memory.wf`). -/
abbrev Memory := List Host.Cell

/-- PHASE: what the sequencer is doing (10_state.md R45). The register values 5 to 7 are never entered (log entry 14). -/
inductive Phase where
  /-- 0: waiting for a command. -/
  | idle
  /-- 1: collecting the data beats of an UPDATE. -/
  | data
  /-- 2: running a block compression. -/
  | comp
  /-- 3: padding. -/
  | pad
  /-- 4: offering a response. -/
  | resp
deriving DecidableEq, Repr

/-- The status codes (60_exceptions.md R250), the values of PSTAT. -/
inductive Status where
  /-- 0 -/
  | ok
  /-- 1 -/
  | alreadyFinalized
  /-- 2 -/
  | notFinalized
  /-- 3 -/
  | illegalCommand
deriving DecidableEq, Repr

/-- RET: where COMP returns to (10_state.md R45, 41_finalize.md R182; log entry 5). -/
inductive Ret where
  | data
  | padA
  | padB
  | finishDone
deriving DecidableEq, Repr

/-- Which step of padding PHASE = PAD is in (41_finalize.md R182; log entry 6). -/
inductive PadStep where
  /-- 0x80 at FILL and zeros up to the end of the buffer. -/
  | a
  /-- Zeros at 0..55 of the fresh block. -/
  | b
  /-- The length field. -/
  | c
  /-- FIN <- 1 after the last block compression. -/
  | done
deriving DecidableEq, Repr

/-- Which cycle of a block compression PHASE = COMP is in (42_compression.md R221; log entry 6). -/
inductive CompStep where
  | load
  | round
  | feed
deriving DecidableEq, Repr

/-- One response as it is transferred: rsp_status and rsp_digest (30_encoding.md R108). -/
structure Response where
  status : BitVec 2
  digest : Digest
deriving DecidableEq, Repr

/-- The engine and the host's side of its ports. -/
structure State where
  /-- H[0..4], DigestState (10_state.md R31). -/
  h : Words5
  /-- BUF[0..63], AccumulationBuffer (10_state.md R33). -/
  buf : Memory
  /-- FILL, the fill index (10_state.md R34). -/
  fill : BitVec 7
  /-- COUNT, BitLengthCounter (10_state.md R35). -/
  count : BitVec 64
  /-- FIN, FinalizedFlag (10_state.md R36). -/
  fin : Bool
  /-- d[0..4], the working copy (10_state.md R40). -/
  d : Words5
  /-- Q[0..15], the schedule window (10_state.md R41, 42_compression.md R220). -/
  q : Vector Word 16
  /-- t, the round counter (10_state.md R42). -/
  t : BitVec 7
  /-- PHASE (10_state.md R45). -/
  phase : Phase
  /-- OPL, the latched OP of the current command (10_state.md R45). -/
  opl : BitVec 2
  /-- REM, the beats the current UPDATE still owes (10_state.md R45). -/
  rem : BitVec 30
  /-- DROP, the current UPDATE's beats are discarded (10_state.md R45, 40_update.md R147). -/
  drop : Bool
  /-- PSTAT, the status of the pending response (10_state.md R45). -/
  pstat : Status
  /-- RET, where COMP returns to (10_state.md R45). -/
  ret : Ret
  /-- The step of PAD (41_finalize.md R182). -/
  padStep : PadStep
  /-- The cycle of COMP (42_compression.md R221). -/
  compStep : CompStep
  /-- MODEL: how many free values have been taken (log entry 4). -/
  draws : Nat
  /-- rst has been asserted since power-up (70_reset_and_hazards.md R284; log entry 10). -/
  started : Bool
  /-- The rst input (30_encoding.md R101). -/
  rst : Bool
  /-- The command words the host offers, the first on cmd_word; cmd_valid says that there is one (30_encoding.md R101). -/
  cmds : List (BitVec 32)
  /-- The data beats the host offers, the first on din_data; din_valid says that there is one (30_encoding.md R101). -/
  beats : List Byte
  /-- The rsp_ready input (30_encoding.md R101). -/
  rspReady : Bool
  /-- The responses transferred so far, oldest first: the observation of 70_reset_and_hazards.md R297. -/
  responses : List Response
  /-- A command that stood offered at an earlier clock edge and has not transferred, which the host must hold
  (70_reset_and_hazards.md R290). -/
  heldCmd : Option (BitVec 32)
  /-- A beat that stood offered at an earlier clock edge and has not transferred, which the host must hold
  (70_reset_and_hazards.md R290). -/
  heldBeat : Option Byte
deriving DecidableEq, Repr

/-- Why the machine stops with a fault. -/
inductive Fault where
  /-- A byte write to a buffer address outside 0..63, which does not exist (20_memory.md R70). Raised by ABSORB and by
  PAD's first write when FILL is 64 or more as the access begins; R71: no such access occurs, so no state of the
  invariant raises it. Safe (log entry 11). -/
  | bufferAddress (address : Nat)
deriving DecidableEq, Repr

/-- Why a step has no meaning. -/
inductive Refusal where
  /-- An instruction that has no meaning in this model yet. Raised by a refused arm of `exec`, of which there is none.
  Safe. -/
  | notModelled (mnemonic : String)
  /-- A clock edge with rst = 0 before rst was ever asserted (70_reset_and_hazards.md R284, 93_implementation_defined.md
  I4). Raised by `step`. Safe (log entry 10). -/
  | beforeFirstReset
  /-- The host dropped or changed a command offer before its transfer (70_reset_and_hazards.md R290, I5). Raised by
  `step`, also at a clock edge with rst = 1. Safe (log entry 9). -/
  | unstableCommandOffer
  /-- The host dropped or changed a beat offer before its transfer (70_reset_and_hazards.md R290, I5). Raised by
  `step`, also at a clock edge with rst = 1. Safe (log entry 9). -/
  | unstableBeatOffer
deriving DecidableEq, Repr

/-- The engine right after reset (10_state.md R47, 70_reset_and_hazards.md R282), with nothing offered to it.
Log entries 2, 3, 4, 5, 6, 7, 8, 9 and 10 name the values the spec does not give. -/
def State.reset : State where
  h := iv
  buf := []
  fill := 0
  count := 0
  fin := false
  d := ⟨0, 0, 0, 0, 0⟩
  q := Vector.replicate 16 0
  t := 0
  phase := .idle
  opl := 0
  rem := 0
  drop := false
  pstat := .ok
  ret := .data
  padStep := .a
  compStep := .load
  draws := 0
  started := true
  rst := false
  cmds := []
  beats := []
  rspReady := true
  responses := []
  heldCmd := none
  heldBeat := none

end Sys2Proof.Machine
end

