-- ==== Sys2Proof/Machine/Operands.lean ====
section
/-! DEFINITION. The forms a value takes as it crosses a width: rotation (00_scope.md R9), big-endian words, lengths and
digests (R12, 41_finalize.md R178), and reading and writing the accumulation buffer (00_scope.md R10, 20_memory.md R70
to R77). Every multi-byte value is big-endian (20_memory.md R76). -/

namespace Sys2Proof.Machine

/-- `rotl(x, n)` for 0 < n < 32 (00_scope.md R9, 42_compression.md R201). -/
def rotl (x : Word) (n : Nat) : Word := (x <<< n) ||| (x >>> (32 - n))

/-- `be32(b0, b1, b2, b3)`: b0 is the most significant byte (00_scope.md R12). -/
def be32 (b0 b1 b2 b3 : Byte) : Word := b0 ++ b1 ++ b2 ++ b3

/-- `be32bytes(w)`, the bytes of a word, most significant first (00_scope.md R12). -/
def be32bytes (w : Word) : List Byte :=
  [w.extractLsb' 24 8, w.extractLsb' 16 8, w.extractLsb' 8 8, w.extractLsb' 0 8]

/-- `be64bytes(c)`, the bytes of a 64-bit value, most significant first (00_scope.md R12). -/
def be64bytes (c : BitVec 64) : List Byte :=
  [c.extractLsb' 56 8, c.extractLsb' 48 8, c.extractLsb' 40 8, c.extractLsb' 32 8,
   c.extractLsb' 24 8, c.extractLsb' 16 8, c.extractLsb' 8 8, c.extractLsb' 0 8]

/-- `Digest(H) = H[0] || H[1] || H[2] || H[3] || H[4]` (41_finalize.md R178). -/
def digestOf (h : Words5) : Digest := h.w0 ++ h.w1 ++ h.w2 ++ h.w3 ++ h.w4

/-- Byte k of the 20-byte digest: `rsp_digest[159-8k : 152-8k]` (41_finalize.md R178). -/
def digestByte (digest : Digest) (k : Nat) : Byte := digest.extractLsb' (152 - 8 * k) 8

/-- The byte at an address of the buffer. -/
def Memory.read : Memory → Nat → Byte
  | [], a => Config.bufReset a
  | (k, v) :: m, a => if a = k then v else Memory.read m a

/-- One byte written, the canonical form kept: an address that is to read as an unlisted one is not listed. -/
def Memory.write : Memory → Nat → Byte → Memory
  | [], a, v => if v = Config.bufReset a then [] else [(a, v)]
  | (k, w) :: m, a, v =>
    if a < k then (if v = Config.bufReset a then (k, w) :: m else (a, v) :: (k, w) :: m)
    else if a = k then (if v = Config.bufReset a then m else (a, v) :: m)
    else (k, w) :: Memory.write m a v

/-- Bytes written at consecutive addresses, in order. -/
def Memory.writeBytes : Memory → Nat → List Byte → Memory
  | m, _, [] => m
  | m, a, v :: vs => Memory.writeBytes (Memory.write m a v) (a + 1) vs

/-- Canonical from an address on: addresses rise strictly, stay below 64, and no entry equals what an unlisted
address reads as. -/
def Memory.wfFrom : Nat → Memory → Bool
  | _, [] => true
  | lo, (k, v) :: m =>
    decide (lo ≤ k) && decide (k < Config.blockBytes) && decide (v ≠ Config.bufReset k) && Memory.wfFrom (k + 1) m

/-- The canonical form of the buffer. -/
def Memory.wf (m : Memory) : Bool := Memory.wfFrom 0 m

/-- One byte stored, at an address of the buffer and at no other (20_memory.md R70, R71; log entry 11). -/
def Memory.store (m : Memory) (a : Nat) (v : Byte) : Except Fault Memory :=
  if a < Config.blockBytes then .ok (Memory.write m a v) else .error (.bufferAddress a)

/-- The bytes at addresses a to a+n-1, in order. -/
def Memory.readBytes (m : Memory) (a n : Nat) : List Byte := (List.range n).map fun k => Memory.read m (a + k)

/-- `MemRead(a, 4)`: the byte at the lower address is the most significant (00_scope.md R10, 20_memory.md R72). -/
def Memory.readWord (m : Memory) (a : Nat) : Word :=
  be32 (Memory.read m a) (Memory.read m (a + 1)) (Memory.read m (a + 2)) (Memory.read m (a + 3))

/-- Word i of the block, `MemRead(4i, 4)` (20_memory.md R72). -/
def Memory.blockWord (m : Memory) (i : Nat) : Word := Memory.readWord m (4 * i)

/-- The sixteen words of the block (42_compression.md R203). -/
def Memory.blockWords (m : Memory) : List Word := (List.range Config.blockWords).map (Memory.blockWord m)

/-- `BUF[i] <- 0x00` for i = a .. b-1 (41_finalize.md R170 steps 2 and 3). Proofs use its read lemma
(Laws/Memory.lean). -/
@[irreducible] def Memory.zeroFill (m : Memory) (a b : Nat) : Memory := Memory.writeBytes m a (List.replicate (b - a) 0)

/-- `MemWrite(56, 8, L)`: the length field, big-endian (20_memory.md R73). -/
@[irreducible] def Memory.writeLength (m : Memory) (len : BitVec 64) : Memory :=
  Memory.writeBytes m Config.lengthFieldOffset (be64bytes len)

end Sys2Proof.Machine
end

