-- ==== Sys2Proof/Machine/Compression.lean ====
section
/-! DEFINITION. Block compression as a pure function (42_compression.md R217): the message schedule (R202 to R204), the
round functions and constants (R205 to R207), the round (R210, R211), the feed-forward (R214); and the 16-word
schedule window of the reference datapath (R220). Every + is modulo 2^32 (R200). -/

namespace Sys2Proof.Machine

/-- Ch, choice (42_compression.md R206). -/
def ch (x y z : Word) : Word := (x &&& y) ||| (~~~x &&& z)

/-- Parity (42_compression.md R206). -/
def parity (x y z : Word) : Word := x ^^^ y ^^^ z

/-- Maj, majority (42_compression.md R206). -/
def maj (x y z : Word) : Word := (x &&& y) ||| (x &&& z) ||| (y &&& z)

/-- g(t) = t div 20 (42_compression.md R205). -/
def roundGroup (t : Nat) : Nat := t / Config.groupRounds

/-- f_g, in the order Ch, Parity, Maj, Parity (42_compression.md R206, 90_conflicts.md C1). -/
def roundFunction : Nat → Word → Word → Word → Word
  | 0 => ch
  | 1 => parity
  | 2 => maj
  | _ => parity

/-- The round sum T (42_compression.md R210). f_g reads d[1] before this round rotates it. -/
def roundSum (t : Nat) (w : Word) (d : Words5) : Word :=
  rotl d.w0 5 + d.w4 + w + (roundConstant (roundGroup t) + roundFunction (roundGroup t) d.w1 d.w2 d.w3)

/-- ROUND(t) (42_compression.md R211, R212): each word moves to the next higher index, and T comes to index 0. -/
def round (t : Nat) (w : Word) (d : Words5) : Words5 :=
  ⟨roundSum t w d, d.w0, rotl d.w1 30, d.w2, d.w3⟩

/-- W[t] from the words before it, the newest first (42_compression.md R204). -/
def scheduleNext (earlier : List Word) : Word :=
  rotl (earlier.getD 2 0 ^^^ earlier.getD 7 0 ^^^ earlier.getD 13 0 ^^^ earlier.getD 15 0) 1

/-- Some more words of the schedule, the newest first. -/
def scheduleExtend : Nat → List Word → List Word
  | 0, earlier => earlier
  | k + 1, earlier => scheduleExtend k (scheduleNext earlier :: earlier)

/-- The message schedule W[0..79] of a block of sixteen words (42_compression.md R202 to R204). -/
def schedule (block : List Word) : List Word :=
  (scheduleExtend (Config.rounds - Config.blockWords) block.reverse).reverse

/-- The rounds from round t on, one for each schedule word, in order (42_compression.md R213). -/
def runRounds : Nat → List Word → Words5 → Words5
  | _, [], d => d
  | t, w :: ws, d => runRounds (t + 1) ws (round t w d)

/-- Feed-forward: H[i] + d[i] (42_compression.md R214). -/
def feedForward (h d : Words5) : Words5 :=
  ⟨h.w0 + d.w0, h.w1 + d.w1, h.w2 + d.w2, h.w3 + d.w3, h.w4 + d.w4⟩

/-- `compress(H, B)` for the sixteen words of a block (42_compression.md R216, R217). -/
def compressWords (h : Words5) (block : List Word) : Words5 :=
  feedForward h (runRounds 0 (schedule block) h)

/-- The big-endian words of a byte list, four bytes each (20_memory.md R72). -/
def wordsOfBytes : List Byte → List Word
  | b0 :: b1 :: b2 :: b3 :: rest => be32 b0 b1 b2 b3 :: wordsOfBytes rest
  | _ => []

/-- `compress(H, B)` for a block of 64 bytes (42_compression.md R217). -/
def compressBytes (h : Words5) (block : List Byte) : Words5 := compressWords h (wordsOfBytes block)

/-- Q[i mod 16] (42_compression.md R220). -/
def windowGet (q : Vector Word 16) (i : Nat) : Word := q[i % 16]'(Nat.mod_lt i (by decide))

/-- Q[i mod 16] <- w (42_compression.md R220). -/
def windowSet (q : Vector Word 16) (i : Nat) (w : Word) : Vector Word 16 :=
  q.set (i % 16) w (Nat.mod_lt i (by decide))

/-- W[t] as the reference datapath forms it: from the buffer for t < 16, else from the window (42_compression.md
R220). -/
def windowWord (buf : Memory) (q : Vector Word 16) (t : Nat) : Word :=
  if t < Config.blockWords then Memory.blockWord buf t
  else rotl (windowGet q (t - 3) ^^^ windowGet q (t - 8) ^^^ windowGet q (t - 14) ^^^ windowGet q t) 1

end Sys2Proof.Machine
end

