-- ==== Sys2Proof/Machine/Flags.lean ====
section
/-! DEFINITION. The engine's conditions: the status codes (60_exceptions.md R250) and which one each command is due
(R252 to R254), the two-block condition of padding (41_finalize.md R173), and the output pins (30_encoding.md R101,
R108). FIN is the only architectural flag and there are no condition codes (10_state.md R44). -/

namespace Sys2Proof.Machine

/-- rsp_status of a status (60_exceptions.md R250). -/
def Status.code : Status → BitVec 2
  | .ok => 0
  | .alreadyFinalized => 1
  | .notFinalized => 2
  | .illegalCommand => 3

/-- The status due to an UPDATE (40_update.md R145, 60_exceptions.md R252). -/
def updateStatus (fin : Bool) : Status := if fin then .alreadyFinalized else .ok

/-- The status due to a GET (41_finalize.md R180, 60_exceptions.md R253). -/
def getStatus (fin : Bool) : Status := if fin then .ok else .notFinalized

/-- "exceeded 56": after 0x80 there is no room for the length field in this block (41_finalize.md R173). Computed, not
stored (10_state.md R44). -/
def needsSecondBlock (fill : BitVec 7) : Bool := decide (Config.lengthFieldOffset < fill.toNat)

/-- The buffer holds a whole block (40_update.md R140). -/
def blockFull (fill : BitVec 7) : Bool := decide (fill.toNat = Config.blockBytes)

/-- cmd_ready: 1 exactly when PHASE = IDLE and rst = 0 (30_encoding.md R101). -/
def State.cmdReady (s : State) : Bool := decide (s.phase = .idle) && !s.rst

/-- din_ready: 1 exactly when PHASE = DATA and REM > 0 and rst = 0 (30_encoding.md R101). -/
def State.dinReady (s : State) : Bool := decide (s.phase = .data) && decide (s.rem ≠ 0) && !s.rst

/-- rsp_valid: 1 exactly when PHASE = RESP and rst = 0 (30_encoding.md R101). -/
def State.rspValid (s : State) : Bool := decide (s.phase = .resp) && !s.rst

/-- rsp_status: PSTAT's code (30_encoding.md R101, 10_state.md R45). DESIGN CHOICE (log entry 20): the pin shows it also
while rsp_valid = 0, where the spec gives the pin no value. -/
def State.rspStatus (s : State) : BitVec 2 := s.pstat.code

/-- The response carries the digest when PSTAT = OK and OPL is FINISH or GET (41_finalize.md R182). DESIGN CHOICE (log
entry 20): the same test decides the pin while rsp_valid = 0. -/
def State.carriesDigest (s : State) : Bool :=
  decide (s.pstat = .ok) && (decide (s.opl = 0b01) || decide (s.opl = 0b10))

/-- rsp_digest: the digest of a successful FINISH or GET, all zeros in every other response (30_encoding.md R108). DESIGN
CHOICE (log entry 20): while rsp_valid = 0, where the spec gives the pin no value, it shows the same function of PSTAT,
OPL and H, so also that of an unfinished H in the PAD and COMP of a FINISH. -/
def State.rspDigest (s : State) : Digest := if s.carriesDigest then digestOf s.h else 0

/-- The response on the response channel (30_encoding.md R108), which is a response only while rsp_valid = 1. -/
def State.pendingResponse (s : State) : Response := ⟨s.rspStatus, s.rspDigest⟩

end Sys2Proof.Machine
end

