-- ==== Sys2Proof/Machine/Ops.lean ====
section
/-! DEFINITION. The operations the commands share: reset (70_reset_and_hazards.md R281), latching a command, respond and
raise (00_scope.md R11), COMPRESS (42_compression.md R216), ABSORB (40_update.md R140), collecting data beats
(R145, R147), PAD (41_finalize.md R170), reading the next command off the command channel, and the host's duty to
hold its offers (70_reset_and_hazards.md R290). The engine has no traps: raising an error is answering its status code
(60_exceptions.md R259). -/

namespace Sys2Proof.Machine

/-- The outcome of a meaning: the next state or the fault. -/
def outcome : Except Fault State → Host.Outcome State Fault Refusal
  | .ok s => .next s
  | .error f => .fault f

/-! ### Reset -/

/-- A clock edge with rst = 1 (70_reset_and_hazards.md R281, R283): every register takes its reset value, whatever the
sequencer was doing, and nothing transfers. What stands outside the engine stays: the pins with the host's offers, and
the responses the host already has. The offers to hold are noted by `step` (`noteOffers`). -/
def resetEngine (s : State) : State :=
  { State.reset with
    draws := s.draws, rst := s.rst, cmds := s.cmds, beats := s.beats, rspReady := s.rspReady, responses := s.responses }

/-! ### The command and its response -/

/-- A command accepted: OPL latches its OP (10_state.md R45). -/
def latchOp (op : BitVec 2) (s : State) : State := { s with opl := op }

/-- An UPDATE accepted (40_update.md R150): the beats owed, whether they are dropped, and the status due. -/
def latchUpdate (len : BitVec 30) (s : State) : State :=
  { s with opl := 0b00, rem := len, drop := s.fin, pstat := updateStatus s.fin }

/-- `respond(status, digest)` (00_scope.md R11): the command ends and its response is offered. The digest field follows
from PSTAT, OPL and H (41_finalize.md R182). -/
def respond (status : Status) (s : State) : State := { s with pstat := status, phase := .resp }

/-- `raise Error(info)` (00_scope.md R11): the error's status code with digest 0, and no other effect. No state is saved,
no mode switched and no control transferred (60_exceptions.md R259). -/
def raiseError (error : Status) (s : State) : State := respond error s

/-- A response transfers: the host has it and the engine is in IDLE (40_update.md R150 step 6, 70_reset_and_hazards.md
R294). There is no return from an error beyond this (60_exceptions.md R260). DESIGN CHOICE (log entry 21): OPL, which
10_state.md R45 calls don't care in IDLE, keeps the last command's OP, and the other registers keep their values too. -/
def takeResponse (s : State) : State :=
  { s with responses := s.responses ++ [s.pendingResponse], phase := .idle }

/-! ### COMPRESS -/

/-- The end of a block compression that gave H the value `h`: H written, FILL <- 0 (42_compression.md R214 to R216). The
working copy, the window and the round counter hold free values from here on (10_state.md R40 to R42, log entry 4). -/
def endCompression (h : Words5) (s : State) : State :=
  { s with
    h := h, fill := 0, compStep := .load,
    d := Config.hiddenD s.draws, q := Config.hiddenQ s.draws, t := Config.hiddenT s.draws, draws := s.draws + 1 }

/-- COMPRESS() as one operation (42_compression.md R216, R217), called from where `ret` names. -/
def compress (ret : Ret) (s : State) : State :=
  { endCompression (compressWords s.h s.buf.blockWords) s with ret := ret }

/-! ### ABSORB and DRAIN -/

/-- ABSORB up to the block step: BUF[FILL] <- b, FILL + 1, COUNT + 8 (40_update.md R140). -/
def absorbByte (b : Byte) (s : State) : Except Fault State :=
  match s.buf.store s.fill.toNat b with
  | .ok buf => .ok { s with buf := buf, fill := s.fill + 1, count := s.count + 8 }
  | .error f => .error f

/-- The block step of ABSORB: a full buffer is compressed at once (40_update.md R140). -/
def compressIfFull (s : State) : State := if blockFull s.fill then compress .data s else s

/-- ABSORB(b) (40_update.md R140). -/
def absorb (b : Byte) (s : State) : Except Fault State :=
  match absorbByte b s with
  | .ok s' => .ok (compressIfFull s')
  | .error f => .error f

/-- One beat moves on the data channel and REM counts down (40_update.md R150 step 3). -/
def takeBeat (rest : List Byte) (s : State) : State := { s with beats := rest, rem := s.rem - 1 }

/-- The beats offered, taken one after the other while the UPDATE owes any: each absorbed, or discarded where DROP is set
(40_update.md R144, R145, R147). The list is the beats that the state still offers. -/
def collectBeats : List Byte → State → Except Fault State
  | [], s => .ok s
  | b :: rest, s =>
    if s.rem = 0 then .ok s
    else if s.drop then collectBeats rest (takeBeat rest s)
    else
      match absorb b (takeBeat rest s) with
      | .ok s' => collectBeats rest s'
      | .error f => .error f

/-- After the last beat the response is offered, and before it the engine waits in DATA (40_update.md R149,
70_reset_and_hazards.md R291). -/
def dataOrResp (s : State) : State := { s with phase := if s.rem = 0 then .resp else .data }

/-! ### PAD -/

/-- Steps 1 and 2 of PAD: 0x80 at FILL, FILL + 1, zeros up to 63 (41_finalize.md R170, R171: padding writes bypass
ABSORB, so COUNT does not count them). -/
def padMark (s : State) : Except Fault State :=
  match s.buf.store s.fill.toNat 0x80 with
  | .ok buf =>
    .ok { s with buf := buf.zeroFill (s.fill.toNat + 1) Config.blockBytes, fill := s.fill + 1 }
  | .error f => .error f

/-- The fresh block of step 3 of PAD: zeros at 0..55 (41_finalize.md R170). -/
def padFresh (s : State) : State := { s with buf := s.buf.zeroFill 0 Config.lengthFieldOffset }

/-- Step 4 of PAD: COUNT at 56..63, big-endian (41_finalize.md R170, R172). COUNT is still the count before padding, as no
padding step writes it. -/
def padLength (s : State) : State := { s with buf := s.buf.writeLength s.count }

/-- Step 3 of PAD: where no room is left for the length field, one block compression and a fresh block (41_finalize.md
R170, R173). -/
def padOverflow (s : State) : State :=
  if needsSecondBlock s.fill then padFresh (compress .padB s) else s

/-- PAD() as one operation (41_finalize.md R170). -/
def padMessage (s : State) : Except Fault State :=
  match padMark s with
  | .ok s' => .ok (compress .finishDone (padLength (padOverflow s')))
  | .error f => .error f

/-- Finalisation is done: FIN <- 1 and the response is offered (41_finalize.md R175, R182). -/
def markFinalized (s : State) : State := respond .ok { s with fin := true, padStep := .a }

/-! ### The channels at a step -/

/-- The next command: the engine accepts the offered word in IDLE, and in no other phase (30_encoding.md R101,
70_reset_and_hazards.md R292). The state is the one in which that word has been taken off the channel. -/
def nextCommand (s : State) : Option (Instr × State) :=
  match s.phase, s.cmds with
  | .idle, word :: rest => some (decode word, { s with cmds := rest })
  | _, _ => none

/-- An offer that must be held stands first on its channel. -/
def offerHeld {α : Type} [DecidableEq α] (held : Option α) (offers : List α) : Bool :=
  match held with
  | none => true
  | some x => decide (offers.head? = some x)

/-- Why a step has no meaning, if it has none: a clock edge with rst = 0 before the first reset (70_reset_and_hazards.md
R284), or an offer that the host dropped or changed (R290, which exempts no edge, so that it binds at rst = 1 too; log
entry 9). -/
def stepRefusal (s : State) : Option Refusal :=
  if !s.started && !s.rst then some .beforeFirstReset
  else if !offerHeld s.heldCmd s.cmds then some .unstableCommandOffer
  else if !offerHeld s.heldBeat s.beats then some .unstableBeatOffer
  else none

/-- The step from `s` to `t` went on after the edge that accepted its command: it took beats, or it finalised. The next
command word then stood offered at those further edges (log entry 9). -/
def outlastsAcceptance (s t : State) : Bool := decide (t.beats.length < s.beats.length) || (t.fin && !s.fin)

/-- The UPDATE that the step from `s` to `t` ran ended in a block compression after its last beat, so that FILL is 0. The
next beat then stood offered through it (log entry 9). -/
def compressesAfterBeats (s t : State) : Bool := decide (s.phase = .idle) && !t.fin && decide (t.fill = 0)

/-- What must be held on a channel after a step: the offer that stands, unless it came up behind one that the step took
and no edge of the step has seen it yet. -/
def heldAfter {α : Type} (before after : List α) (seen : Bool) : Option α :=
  if after.length < before.length && !seen then none else after.head?

/-- The offers to hold from state `s` to the next step, once the step has reached `t` (70_reset_and_hazards.md R290). -/
def noteOffers (s t : State) : State :=
  { t with
    heldCmd := heldAfter s.cmds t.cmds (outlastsAcceptance s t),
    heldBeat := heldAfter s.beats t.beats (compressesAfterBeats s t) }

/-- A step's outcome with the offers to hold noted. -/
def afterStep (s : State) : Host.Outcome State Fault Refusal → Host.Outcome State Fault Refusal
  | .next t => .next (noteOffers s t)
  | .fault f => .fault f
  | .refused r => .refused r

/-- A command word placed at the head of the command channel of an engine that is ready to accept it. -/
def offerCommand (word : BitVec 32) (s : State) : State :=
  { s with
    rst := false, started := true, phase := .idle, cmds := word :: s.cmds, heldCmd := none, heldBeat := none }

end Sys2Proof.Machine
end

