-- ==== Sys2Proof/Machine/Finalize.lean ====
section
/-! DEFINITION. The two digest commands: FINISH (41_finalize.md R175, R176) and GET (R180, R181). -/

namespace Sys2Proof.Machine

/-- FINISH (41_finalize.md R175): pads and finalises where FIN = 0; once finalised it only answers the digest again
(R176). -/
def execFinish (s : State) : Host.Outcome State Fault Refusal :=
  if s.fin then .next (respond .ok (latchOp 0b01 s))
  else
    match padMessage (latchOp 0b01 s) with
    | .ok s' => .next (markFinalized s')
    | .error f => .fault f

/-- GET (41_finalize.md R180): the digest where FIN = 1, NotFinalizedOnImmutableAccess where FIN = 0. It never writes H,
BUF, FILL, COUNT or FIN (R181). -/
def execGet (s : State) : Host.Outcome State Fault Refusal :=
  if s.fin then .next (respond .ok (latchOp 0b10 s))
  else .next (raiseError .notFinalized (latchOp 0b10 s))

end Sys2Proof.Machine
end

