-- ==== Sys2Proof/Machine/Illegal.lean ====
section
/-! DEFINITION. Illegal command words (30_encoding.md R110, 60_exceptions.md R254). -/

namespace Sys2Proof.Machine

/-- An illegal word is accepted like any command, takes no beats, changes no architectural state, and is answered
ILLEGAL_COMMAND with digest 0 (30_encoding.md R110, 60_exceptions.md R254), whatever FIN is (R257). OPL latches the
word's OP bits (log entry 15). -/
def execIllegal (word : BitVec 32) (s : State) : Host.Outcome State Fault Refusal :=
  .next (raiseError .illegalCommand (latchOp (opField word) s))

end Sys2Proof.Machine
end

