-- ==== Sys2Proof/Machine/Update.lean ====
section
/-! DEFINITION. UPDATE (40_update.md R145 to R149). -/

namespace Sys2Proof.Machine

/-- UPDATE(N) (40_update.md R145). FIN is tested once, at acceptance: the beats are absorbed where it was 0 and discarded
where it was 1 (DRAIN, R147), and the status is OK or ALREADY_FINALIZED with digest 0. The command takes the beats that
are offered, up to N; where fewer are offered the engine waits in DATA for the rest (70_reset_and_hazards.md R291; log
entry 16). -/
def execUpdate (len : BitVec 30) (s : State) : Host.Outcome State Fault Refusal :=
  match collectBeats s.beats (latchUpdate len s) with
  | .ok s' => .next (dataOrResp s')
  | .error f => .fault f

end Sys2Proof.Machine
end

