-- ==== Sys2Proof/Machine/Sequencer.lean ====
section
/-! DEFINITION. The reference sequencer: one clock edge with rst = 0 (10_state.md R45, 40_update.md R150, 41_finalize.md
R182, 42_compression.md R219 to R221). Its edges carry a command from its acceptance to its response one register
transfer at a time; the meanings of Machine/Dispatch.lean carry it there at once, and both reach the same state. -/

namespace Sys2Proof.Machine

/-- COMP is entered and will return where `ret` names (10_state.md R45). -/
def enterComp (ret : Ret) (s : State) : State := { s with phase := .comp, ret := ret, compStep := .load }

/-- PAD is entered at a step of it (41_finalize.md R182). -/
def enterPad (step : PadStep) (s : State) : State := { s with phase := .pad, padStep := step }

/-- A command is accepted (30_encoding.md R109, 40_update.md R150 steps 1 and 2, 41_finalize.md R182). -/
def acceptCommand (i : Instr) (s : State) : State :=
  match i with
  | .update len => dataOrResp (latchUpdate len s)
  | .finish => if s.fin then respond .ok (latchOp 0b01 s) else enterPad .a (latchOp 0b01 s)
  | .get => respond (getStatus s.fin) (latchOp 0b10 s)
  | .illegal word => raiseError .illegalCommand (latchOp (opField word) s)

/-- A beat that was absorbed, or dropped, leaves the engine in COMP where it filled the block, else in DATA or RESP
(40_update.md R150 steps 4 and 5). -/
def afterBeat (s : State) : State := if blockFull s.fill then enterComp .data s else dataOrResp s

/-- An edge in DATA (40_update.md R150 steps 3 to 5): the offered beat transfers while REM > 0. With REM > 0 and no beat
offered nothing moves; with REM = 0 the response is due (log entry 16). -/
def dataEdge (s : State) : Except Fault State :=
  if s.rem = 0 then .ok (dataOrResp s)
  else
    match s.beats with
    | [] => .ok s
    | b :: rest =>
      if s.drop then .ok (dataOrResp (takeBeat rest s))
      else
        match absorbByte b (takeBeat rest s) with
        | .ok s' => .ok (afterBeat s')
        | .error f => .error f

/-- COMP returns to the phase RET names, or past DATA to RESP where no beat is owed (10_state.md R45, 40_update.md R150
step 5, 41_finalize.md R182; log entry 13). -/
def leaveComp (s : State) : State :=
  match s.ret with
  | .data => dataOrResp s
  | .padA => enterPad .a s
  | .padB => enterPad .b s
  | .finishDone => enterPad .done s

/-- One round of COMP with the schedule window (42_compression.md R211, R220). t stays at 79 in the last one. -/
def roundEdge (s : State) : State :=
  let w := windowWord s.buf s.q s.t.toNat
  { s with
    d := round s.t.toNat w s.d, q := windowSet s.q s.t.toNat w,
    t := if s.t.toNat + 1 < Config.rounds then s.t + 1 else s.t,
    compStep := if s.t.toNat + 1 < Config.rounds then .round else .feed }

/-- An edge in COMP (42_compression.md R221): d <- H and t <- 0, then the 80 rounds, then the feed-forward. -/
def compEdge (s : State) : State :=
  match s.compStep with
  | .load => { s with d := s.h, t := 0, compStep := .round }
  | .round => roundEdge s
  | .feed => leaveComp (endCompression (feedForward s.h s.d) s)

/-- An edge in PAD (41_finalize.md R182). -/
def padEdge (s : State) : Except Fault State :=
  match s.padStep with
  | .a =>
    match padMark s with
    | .ok s' => .ok (if needsSecondBlock s'.fill then enterComp .padB s' else enterPad .c s')
    | .error f => .error f
  | .b => .ok (enterPad .c (padFresh s))
  | .c => .ok (enterComp .finishDone (padLength s))
  | .done => .ok (markFinalized s)

/-- One rising edge of clk with rst = 0 (30_encoding.md R100, R102). Where a channel's valid and ready are not both 1 it
moves nothing. -/
def clockEdge (s : State) : Except Fault State :=
  match s.phase with
  | .idle =>
    match nextCommand s with
    | some (i, s') => .ok (acceptCommand i s')
    | none => .ok s
  | .data => dataEdge s
  | .comp => .ok (compEdge s)
  | .pad => padEdge s
  | .resp => .ok (if s.rspReady then takeResponse s else s)

/-- A number of clock edges with rst = 0, up to the first fault. -/
def clockEdges : Nat → State → Except Fault State
  | 0, s => .ok s
  | k + 1, s =>
    match clockEdge s with
    | .ok s' => clockEdges k s'
    | .error f => .error f

/-- Clock edges with the offers to hold noted at every one of them, up to the first fault. -/
def notedEdges : Nat → State → Except Fault State
  | 0, s => .ok s
  | k + 1, s =>
    match clockEdge s with
    | .ok s' => notedEdges k (noteOffers s s')
    | .error f => .error f

/-- A step that accepts no command: one clock edge. -/
def edgeOutcome (s : State) : Host.Outcome State Fault Refusal := outcome (clockEdge s)

end Sys2Proof.Machine
end

