-- ==== Sys2Proof/Machine/Step.lean ====
section
/-! DEFINITION. One step. rst is over everything that the engine does (60_exceptions.md R258), and a broken offer has no
meaning with or without it (70_reset_and_hazards.md R290). Without rst, in IDLE with a command offered, a step accepts that
command and carries it to its response at once, as far as its beats are offered (00_scope.md R14); everywhere else a step is
one clock edge of the reference sequencer (log entry 1). -/

namespace Sys2Proof.Machine

/-- One step of the engine. -/
def step (s : State) : Host.Outcome State Fault Refusal :=
  match stepRefusal s with
  | some r => .refused r
  | none =>
    if s.rst then .next (noteOffers s (resetEngine s))
    else
      match nextCommand s with
      | some (i, s') => afterStep s (exec i s')
      | none => afterStep s (edgeOutcome s)

/-- The state in which the next step accepts and runs the command word of the low `nbits` bits of `w`: it is the next word
on the command channel of an engine that is ready for it (log entry 17). -/
def State.withFetchWord (s : State) (nbits w : Nat) : State := offerCommand (tableWord nbits w) s

end Sys2Proof.Machine
end

