-- ==== Sys2Proof/Machine/Listing.lean ====
section
/-! DEFINITION. Command listings (30_encoding.md R114, R115): the lines a host's program is written in, what each line
offers on the channels, and the pseudo-commands. The concrete text of a listing (spelling, comments) is not
modelled; a line is its abstract form (log entry 18). -/

namespace Sys2Proof.Machine

/-- One line of a listing (30_encoding.md R114). -/
inductive Line where
  /-- `UPDATE b0, ..., b(N-1)`, also the empty one. -/
  | update (bytes : List Byte)
  /-- `FINISH` -/
  | finish
  /-- `GET` -/
  | get
  /-- `.word 0xXXXXXXXX` with its `.beats`: any raw command word. -/
  | raw (word : BitVec 32) (beats : List Byte)
  /-- `.reset`: rst asserted; a directive, not a command. -/
  | reset
deriving DecidableEq, Repr

/-- `cmd_word : beat bytes`, the encoding of a line; the directive `.reset` has none (30_encoding.md R114). -/
def Line.encoding : Line → Option (BitVec 32 × List Byte)
  | .update bytes => some (encode (.update (BitVec.ofNat 30 bytes.length)), bytes)
  | .finish => some (encode .finish, [])
  | .get => some (encode .get, [])
  | .raw word beats => some (word, beats)
  | .reset => none

/-- The ASCII bytes of a text, no terminator (30_encoding.md R115). DESIGN CHOICE (log entry 18): for a character outside
ASCII, of which the spec does not speak, the low 8 bits of its code point. -/
def asciiBytes (text : String) : List Byte := text.toList.map fun c => BitVec.ofNat 8 c.toNat

/-- Consecutive UPDATEs of at most 2^30 - 1 bytes, at most `pieces` of them before the last (30_encoding.md R115). -/
def splitUpdate : Nat → List Byte → List Line
  | 0, bytes => [.update bytes]
  | pieces + 1, bytes =>
    if bytes.length ≤ Config.maxUpdateLength then [.update bytes]
    else .update (bytes.take Config.maxUpdateLength) :: splitUpdate pieces (bytes.drop Config.maxUpdateLength)

/-- `UPDATE` with any number of bytes (30_encoding.md R115). -/
def longUpdate (bytes : List Byte) : List Line := splitUpdate (bytes.length / Config.maxUpdateLength) bytes

/-- `HASH "text"`: `UPDATE "text"` and then `FINISH` (30_encoding.md R115). -/
def hashLines (text : String) : List Line := longUpdate (asciiBytes text) ++ [.finish]

/-- The host performs a line: it offers the line's command and beats after those it offers already, or asserts rst. -/
def Line.perform (line : Line) (s : State) : State :=
  match line.encoding with
  | some (word, bytes) => { s with rst := false, cmds := s.cmds ++ [word], beats := s.beats ++ bytes }
  | none => { s with rst := true }

/-- The host performs the lines of a listing that has no `.reset`, one after the other. -/
def performAll (lines : List Line) (s : State) : State := lines.foldl (fun s' line => line.perform s') s

end Sys2Proof.Machine
end

