-- ==== Sys2Proof/Safety.lean ====
section
/-! DEFINITION. The terms claims about the engine are stated in: the invariant of every step, the stream invariant
(10_state.md R38), the standard padded message and its digest (41_finalize.md R183), what the host is answered
(70_reset_and_hazards.md R297), and when two states are the same to everything the engine will ever read or answer
(10_state.md R48, 20_memory.md R75). -/

namespace Sys2Proof.Machine

/-! ### The invariant -/

/-- What holds of every state that a step reaches from reset, whatever the host offers. -/
structure State.Inv (s : State) : Prop where
  /-- BUF is in canonical form and inside addresses 0..63 (20_memory.md R70, R71). -/
  buf_wf : s.buf.wf = true
  /-- FILL is at most 64, and 64 only inside a block compression (10_state.md R34). -/
  fill_le : s.fill.toNat ≤ 64
  fill_lt : s.phase ≠ .comp → s.fill.toNat < 64
  /-- COUNT counts whole bytes (10_state.md R35). -/
  count_bytes : s.count.toNat % 8 = 0
  /-- Before finalisation FILL is the number of bytes absorbed, modulo 64 (10_state.md R38). -/
  fill_count : s.fin = false → (s.phase = .idle ∨ s.phase = .data ∨ s.phase = .resp) →
    s.count.toNat / 8 % 64 = s.fill.toNat
  /-- After finalisation the buffer is empty (41_finalize.md R174). -/
  fill_fin : s.fin = true → s.fill = 0
  /-- Beats are owed in DATA, or while an UPDATE's block is compressed, and at no other time (10_state.md R45). -/
  rem_data : s.phase = .data → s.rem ≠ 0
  rem_else : s.phase ≠ .data → ¬(s.phase = .comp ∧ s.ret = .data) → s.rem = 0
  /-- An UPDATE's beats are dropped exactly when FIN was 1 at its acceptance (10_state.md R45). -/
  drop_fin : s.drop = true → s.fin = true
  drop_data : s.phase = .data → s.drop = s.fin ∧ s.opl = 0b00 ∧ s.pstat = updateStatus s.fin
  /-- A block compression runs before finalisation, for an UPDATE or inside a FINISH (42_compression.md R216). -/
  comp_fin : s.phase = .comp → s.fin = false
  comp_data : s.phase = .comp → s.ret = .data →
    s.fill.toNat = 64 ∧ s.count.toNat / 8 % 64 = 0 ∧ s.opl = 0b00 ∧ s.pstat = .ok ∧ s.drop = false
  comp_pad : s.phase = .comp → s.ret ≠ .data → s.opl = 0b01 ∧ s.ret ≠ .padA
  /-- The round counter is a round's number (10_state.md R42). -/
  comp_round : s.phase = .comp → s.compStep ≠ .load → s.t.toNat < 80
  /-- Padding runs inside a FINISH, before finalisation (41_finalize.md R170). -/
  pad_fin : s.phase = .pad → s.fin = false ∧ s.opl = 0b01
  pad_a : s.phase = .pad → s.padStep = .a → s.count.toNat / 8 % 64 = s.fill.toNat
  pad_done : s.phase = .pad → s.padStep = .done → s.fill = 0
  /-- A response carries the status that FIN and the command call for (60_exceptions.md R250, R251). -/
  resp_status : s.phase = .resp →
    (s.opl = 0b00 ∧ s.pstat = updateStatus s.fin) ∨ (s.opl = 0b01 ∧ s.pstat = .ok ∧ s.fin = true) ∨
      (s.opl = 0b10 ∧ s.pstat = getStatus s.fin) ∨ s.pstat = .illegalCommand

/-! ### The host's duties at a step -/

/-- The host holds its offers: each that stood and was not transferred still stands first on its channel
(70_reset_and_hazards.md R290). -/
structure State.OffersStand (s : State) : Prop where
  cmd_held : ∀ word, s.heldCmd = some word → s.cmds.head? = some word
  beat_held : ∀ byte, s.heldBeat = some byte → s.beats.head? = some byte

/-- The engine has been reset and rst is low (70_reset_and_hazards.md R284), and the host holds its offers (R290). -/
structure State.DutiesMet (s : State) : Prop extends State.OffersStand s where
  started : s.started = true
  rst_low : s.rst = false

/-! ### The standard digest -/

/-- Block compression folded over the first `blocks` blocks of a byte string, in order (10_state.md R38). -/
def hashBlocks : Nat → Words5 → List Byte → Words5
  | 0, h, _ => h
  | blocks + 1, h, bytes => hashBlocks blocks (compressBytes h (bytes.take 64)) (bytes.drop 64)

/-- The number of zero bytes of the padding of a message of `len` bytes (41_finalize.md R183). -/
def paddingZeros (len : Nat) : Nat := (119 - len % 64) % 64

/-- The standard padded message `m || 0x80 || 0x00^k || be64bytes(8·l)` (41_finalize.md R183); the length field is
8·l mod 2^64. -/
def paddedMessage (m : List Byte) : List Byte :=
  m ++ 0x80 :: List.replicate (paddingZeros m.length) 0 ++ be64bytes (BitVec.ofNat 64 (8 * m.length))

/-- The number that a byte string stands for, most significant byte first (20_memory.md R76). -/
def bigEndianValue (bytes : List Byte) : Nat := bytes.foldl (fun n b => 256 * n + b.toNat) 0

/-- The number in the length field of a message's padding, the last eight bytes of the padded message. -/
def paddedLength (m : List Byte) : Nat := bigEndianValue ((paddedMessage m).drop ((paddedMessage m).length - 8))

/-- The digest state of a message: block compression folded from IV over the blocks of its padded message
(41_finalize.md R183). For messages of less than 2^61 bytes this is SHA-1. -/
def sha1 (m : List Byte) : Words5 := hashBlocks ((paddedMessage m).length / 64) iv (paddedMessage m)

/-! ### The stream invariant -/

/-- `m` is what the engine has absorbed since reset, and it is not finalised (10_state.md R38). -/
structure Stream (m : List Byte) (s : State) : Prop where
  fin : s.fin = false
  fill : s.fill.toNat = m.length % 64
  count : s.count = BitVec.ofNat 64 (8 * m.length)
  buf : s.buf.readBytes 0 s.fill.toNat = m.drop (64 * (m.length / 64))
  h : s.h = hashBlocks (m.length / 64) iv m

/-! ### What the host is answered -/

/-- A command accepted in IDLE, carried to its response, and the response taken. None where the command has no response
yet (its beats are not all offered). -/
def answer (word : BitVec 32) (s : State) : Option State :=
  match exec (decode word) s with
  | .next t => if t.phase = .resp then some (takeResponse t) else none
  | .fault _ => none
  | .refused _ => none

/-- The responses to a sequence of commands, one for each, as far as they complete (70_reset_and_hazards.md R297). The
beats are those the state offers. -/
def answers : List (BitVec 32) → State → List Response
  | [], _ => []
  | word :: words, s =>
    match answer word s with
    | some t => (t.responses.drop s.responses.length) ++ answers words t
    | none => []

/-! ### Sameness to the engine -/

/-- The buffer bytes below `bound` agree. -/
def Memory.AgreeBelow (bound : Nat) (m m' : Memory) : Prop := ∀ a, a < bound → m.read a = m'.read a

/-- The buffer bytes the engine may still read before writing them agree: the whole block inside a block compression, the
part that the next padding step leaves, and below FILL everywhere else (20_memory.md R75). -/
def SameBuffer (s s' : State) : Prop :=
  match s.phase, s.padStep with
  | .comp, _ => Memory.AgreeBelow 64 s.buf s'.buf
  | .pad, .a => Memory.AgreeBelow s.fill.toNat s.buf s'.buf
  | .pad, .b => True
  | .pad, .c => Memory.AgreeBelow 56 s.buf s'.buf
  | _, _ => Memory.AgreeBelow s.fill.toNat s.buf s'.buf

/-- Inside the rounds of a block compression the working copy, the round counter and the window words already formed
agree; everywhere else the hidden working state may be anything (10_state.md R40 to R42). -/
def SameHidden (s s' : State) : Prop :=
  s.phase = .comp → s.compStep ≠ .load →
    s.d = s'.d ∧ s.t = s'.t ∧ ∀ i, i < 16 → i < s.t.toNat → windowGet s.q i = windowGet s'.q i

/-- The two states agree on everything that a response can depend on: all but stale buffer bytes, the hidden working
state and the count of free values (10_state.md R48, R50, 20_memory.md R75). -/
structure Same (s s' : State) : Prop where
  h : s.h = s'.h
  fill : s.fill = s'.fill
  count : s.count = s'.count
  fin : s.fin = s'.fin
  phase : s.phase = s'.phase
  opl : s.opl = s'.opl
  rem : s.rem = s'.rem
  drop : s.drop = s'.drop
  pstat : s.pstat = s'.pstat
  ret : s.ret = s'.ret
  padStep : s.padStep = s'.padStep
  compStep : s.compStep = s'.compStep
  started : s.started = s'.started
  rst : s.rst = s'.rst
  cmds : s.cmds = s'.cmds
  beats : s.beats = s'.beats
  rspReady : s.rspReady = s'.rspReady
  responses : s.responses = s'.responses
  heldCmd : s.heldCmd = s'.heldCmd
  heldBeat : s.heldBeat = s'.heldBeat
  buffer : SameBuffer s s'
  hidden : SameHidden s s'

end Sys2Proof.Machine
end

