-- ==== Sys2Proof/Certificates/Slice0/Obligations.lean ====
section
/-! DEFINITION. The statements about the engine, for the provers. Each docstring names the rule of spec/ it formalises, or
the section it is derived from. -/

open Sys2Proof Sys2Proof.Machine

/-! ### Reset -/

/-- Derived (70_reset_and_hazards.md R282; that a step runs the accepted command to its response at once is the model's
grain, log entry 1; that a reset does not end the duty to hold an offer is the model's reading of R290, log entry 9).
After one clock edge with rst = 1 the engine is in IDLE with H = IV, FILL = 0, COUNT = 0 and FIN = 0; with rst released
its outputs are cmd_ready = 1, din_ready = 0 and rsp_valid = 0, and it accepts whatever command is offered at that edge,
where an offer that stood over the reset stands still. -/
def Obligations.ResetEdgeGivesAFreshEngine : Prop :=
  ∀ s : State, s.rst = true → s.OffersStand →
    ∃ t, step s = .next t ∧
      t.h = ⟨0x67452301, 0xEFCDAB89, 0x98BADCFE, 0x10325476, 0xC3D2E1F0⟩ ∧
      t.fill = 0 ∧ t.count = 0 ∧ t.fin = false ∧ t.phase = .idle ∧
      ∀ word rest, ∀ u : State, u = { t with rst := false, cmds := word :: rest } →
        u.cmdReady = true ∧ u.dinReady = false ∧ u.rspValid = false ∧
        (u.OffersStand → step u = afterStep u (exec (decode word) { u with cmds := rest }))

/-- Derived (70_reset_and_hazards.md R281, R283, R290; that the duty to hold offers binds at a reset edge is the model's
reading, log entry 9, and OffersMustBeHeld says what becomes of the other states; that the record of responses outlives a
reset is log entry 8; that BUF and the hidden working state have the same reset values at each edge is log entries 2 and
3). rst = 1 abandons the command in progress, whatever the phase: no response is issued, an offered one is withdrawn, no
beat is owed any more, and nothing transfers; holding rst longer changes nothing. -/
def Obligations.ResetAbandonsTheCommand : Prop :=
  ∀ s : State, s.rst = true →
    s.cmdReady = false ∧ s.dinReady = false ∧ s.rspValid = false ∧
    (s.OffersStand → ∃ t, step s = .next t ∧
      t.responses = s.responses ∧ t.cmds = s.cmds ∧ t.beats = s.beats ∧ t.phase = .idle ∧ t.rem = 0 ∧
      t.fill = 0 ∧ t.count = 0 ∧ t.fin = false ∧ t.h = iv ∧ step t = .next t)

/-- Derived (70_reset_and_hazards.md R284, 93_implementation_defined.md I4; the refusal's form is the model's, log entry
10). Without a reset the engine has no meaning, and a reset is what gives it one, where the host holds its offers (log
entry 9). -/
def Obligations.NothingRunsBeforeTheFirstReset : Prop :=
  ∀ s : State, s.started = false →
    (s.rst = false → step s = .refused .beforeFirstReset) ∧
    (s.rst = true → s.OffersStand → ∃ t, step s = .next t ∧ t.started = true)

/-- Derived (70_reset_and_hazards.md R290, 93_implementation_defined.md I5; that the duty binds at a clock edge with rst =
1 too is the model's reading, log entry 9). An offer that a step leaves untransferred, under reset or not, must still
stand at the next step; where it was dropped or changed that step has no meaning, on the command channel, and on the data
channel wherever the command channel is in order. -/
def Obligations.OffersMustBeHeld : Prop :=
  (∀ s t : State, step s = .next t →
    (∀ word rest, s.cmds = word :: rest → t.cmds = s.cmds → t.heldCmd = some word) ∧
    (∀ byte rest, s.beats = byte :: rest → t.beats = s.beats → t.heldBeat = some byte) ∧
    (s.rst = true → t.heldCmd = s.cmds.head? ∧ t.heldBeat = s.beats.head?)) ∧
  (∀ s : State, (s.started = true ∨ s.rst = true) → ∀ word, s.heldCmd = some word → s.cmds.head? ≠ some word →
    step s = .refused .unstableCommandOffer) ∧
  (∀ s : State, (s.started = true ∨ s.rst = true) → (∀ word, s.heldCmd = some word → s.cmds.head? = some word) →
    ∀ byte, s.heldBeat = some byte → s.beats.head? ≠ some byte → step s = .refused .unstableBeatOffer)

/-! ### Decoding -/

/-- Derived (30_encoding.md section 4, 95_test_vectors.md V-DEC-1 to V-DEC-11). Command words written out from the
encoding decode to the commands they stand for. -/
def Obligations.WrittenOutWordsDecode : Prop :=
  decode 0x00000000 = .update 0 ∧ decode 0x00000003 = .update 3 ∧
  decode 0b00111111111111111111111111111111 = .update 0x3FFFFFFF ∧
  decode 0b01000000000000000000000000000000 = .finish ∧ decode 0b10000000000000000000000000000000 = .get ∧
  decode 0x40000001 = .illegal 0x40000001 ∧ decode 0x7FFFFFFF = .illegal 0x7FFFFFFF ∧
  decode 0x80000005 = .illegal 0x80000005 ∧ decode 0xC0000000 = .illegal 0xC0000000 ∧
  decode 0xFFFFFFFF = .illegal 0xFFFFFFFF

/-- Derived (30_encoding.md sections 2 and 4). Decode and encode agree for every well-formed command at every operand, as
a word and as the four bytes of a byte-wide bus. -/
def Obligations.DecodeEncodeRoundTrip : Prop :=
  ∀ i : Instr, i.wf = true →
    decode (encode i) = i ∧ ∀ rest, decodeBytes (encodeBytes i ++ rest) = .ok (i, rest)

/-- Derived (30_encoding.md section 4). Decoding is total on the 2^32 command words: every word is exactly one well-formed
command, and no bit of it is dropped. -/
def Obligations.EveryWordIsOneCommand : Prop :=
  ∀ word : BitVec 32, (decode word).wf = true ∧ encode (decode word) = word ∧
    ∀ i : Instr, i.wf = true → encode i = word → i = decode word

/-- 30_encoding.md R113: the opcode map's rows are tried in order and the first match wins. -/
def Obligations.FirstMatchingRowDecides : Prop :=
  ∀ word : BitVec 32,
    (word &&& 0xC0000000 = 0x00000000 →
      decode word = .update (word.extractLsb' 0 30) ∧
        opcodeMap.find? (·.matches word) = some ⟨"UPDATE", 0x00000000, 0xC0000000⟩) ∧
    (word &&& 0xFFFFFFFF = 0x40000000 →
      decode word = .finish ∧ opcodeMap.find? (·.matches word) = some ⟨"FINISH", 0x40000000, 0xFFFFFFFF⟩) ∧
    (word &&& 0xFFFFFFFF = 0x80000000 →
      decode word = .get ∧ opcodeMap.find? (·.matches word) = some ⟨"GET", 0x80000000, 0xFFFFFFFF⟩) ∧
    (word &&& 0xC0000000 ≠ 0x00000000 → word &&& 0xFFFFFFFF ≠ 0x40000000 → word &&& 0xFFFFFFFF ≠ 0x80000000 →
      decode word = .illegal word ∧
        opcodeMap.find? (·.matches word) = some ⟨"ILLEGAL", 0x00000000, 0x00000000⟩)

/-! ### A step -/

/-- Derived (00_scope.md R14, 30_encoding.md R101; the step's grain and what it notes of the offers are the model's, log
entries 1 and 9). Where the host meets its duties and the engine is in IDLE, a step runs the offered command that the
decoder reads, and then only notes which offers the host must hold. -/
def Obligations.StepRunsTheDecodedCommand : Prop :=
  ∀ (s : State) (word : BitVec 32) (rest : List (BitVec 32)),
    s.DutiesMet → s.phase = .idle → s.cmds = word :: rest →
    step s = afterStep s (exec (decode word) { s with cmds := rest }) ∧
    ∀ t, exec (decode word) { s with cmds := rest } = .next t → step s = .next (noteOffers s t)

/-- Derived (00_scope.md R14, 40_update.md R150; the step's grain and what it notes of the offers are the model's, log
entries 1 and 9). Everywhere else a step is one clock edge of the sequencer. -/
def Obligations.StepElsewhereIsOneClockEdge : Prop :=
  ∀ s : State, s.DutiesMet → (s.phase ≠ .idle ∨ s.cmds = []) →
    step s = afterStep s (outcome (clockEdge s))

/-- Derived (70_reset_and_hazards.md R294; that waiting is a step to the same registers is the model's choice, log entry
16, what it notes of the offers is log entry 9, and that OPL and the other registers keep their values in IDLE is log
entry 21). The response is offered, unchanged, until the host is ready, and nothing else is accepted meanwhile; then it
transfers and the engine is in IDLE. -/
def Obligations.ResponseIsHeldUntilTaken : Prop :=
  ∀ s : State, s.DutiesMet → s.phase = .resp →
    s.rspValid = true ∧
    (s.rspReady = false → step s = .next { s with heldCmd := s.cmds.head?, heldBeat := s.beats.head? }) ∧
    (s.rspReady = true →
      step s = .next { s with
        responses := s.responses ++ [⟨s.rspStatus, s.rspDigest⟩], phase := .idle,
        heldCmd := s.cmds.head?, heldBeat := s.beats.head? })

/-- Derived (30_encoding.md R102, 70_reset_and_hazards.md R291; that waiting is a step to the same registers is the
model's choice, log entry 16, what it notes of the offers is log entry 9, and that OPL keeps its value in IDLE is log
entry 21). In IDLE with no command offered, and in DATA with a beat owed and none offered, a step changes no register and
no channel. -/
def Obligations.EngineWaitsForTheHost : Prop :=
  ∀ s : State, s.DutiesMet →
    ((s.phase = .idle ∧ s.cmds = []) ∨ (s.phase = .data ∧ s.rem ≠ 0 ∧ s.beats = [])) →
    step s = .next { s with heldCmd := s.cmds.head?, heldBeat := s.beats.head? }

/-- Derived (70_reset_and_hazards.md R292, R293; the last clause rests on the step's grain, log entry 1, by which one step
from IDLE holds the UPDATE's acceptance and the edges in DATA that take its beats, and on log entry 16, by which an UPDATE
takes the beats offered also where they are fewer than LEN). A command is taken in IDLE only. A beat is taken only in DATA
while one is owed, one at an edge, or by the UPDATE that the step accepts; every other offer waits. -/
def Obligations.OffersWaitOutsideTheirPhase : Prop :=
  ∀ s t : State, s.rst = false → step s = .next t →
    (s.phase ≠ .idle → t.cmds = s.cmds) ∧
    (s.phase = .idle → t.cmds = s.cmds.tail) ∧
    (s.phase ≠ .idle → s.phase ≠ .data → t.beats = s.beats) ∧
    (s.phase = .data → s.rem = 0 → t.beats = s.beats) ∧
    (s.phase = .data → s.rem ≠ 0 → t.beats = s.beats.tail) ∧
    (s.phase = .idle → s.cmds = [] → t.beats = s.beats) ∧
    (s.phase = .idle → ∀ word rest, s.cmds = word :: rest → (∀ len, decode word ≠ .update len) → t.beats = s.beats) ∧
    (s.phase = .idle → ∀ word rest len, s.cmds = word :: rest → decode word = .update len →
      t.beats = s.beats.drop len.toNat)

/-! ### The compression datapath -/

/-- 42_compression.md R207 (with R205's round group g(t) = t div 20). The round group of each round and its constant. -/
def Obligations.RoundConstantsByGroup : Prop :=
  ∀ t : Nat,
    (t < 20 → roundGroup t = 0 ∧ roundConstant (roundGroup t) = 0x5A827999) ∧
    (20 ≤ t → t < 40 → roundGroup t = 1 ∧ roundConstant (roundGroup t) = 0x6ED9EBA1) ∧
    (40 ≤ t → t < 60 → roundGroup t = 2 ∧ roundConstant (roundGroup t) = 0x8F1BBCDC) ∧
    (60 ≤ t → t < 80 → roundGroup t = 3 ∧ roundConstant (roundGroup t) = 0xCA62C1D6)

/-- 42_compression.md R206. The boolean function of each round: Ch, Parity, Maj, Parity. -/
def Obligations.RoundFunctionsByGroup : Prop :=
  ∀ (t : Nat) (x y z : Word),
    (t < 20 → roundFunction (roundGroup t) x y z = (x &&& y) ||| (~~~x &&& z)) ∧
    (20 ≤ t → t < 40 → roundFunction (roundGroup t) x y z = x ^^^ y ^^^ z) ∧
    (40 ≤ t → t < 60 → roundFunction (roundGroup t) x y z = (x &&& y) ||| (x &&& z) ||| (y &&& z)) ∧
    (60 ≤ t → t < 80 → roundFunction (roundGroup t) x y z = x ^^^ y ^^^ z)

/-- Derived (42_compression.md R208, the truth table). Ch picks y where x is 1 and z where x is 0; Parity is the sum of
the three bits modulo 2; Maj is 1 where at least two are 1. -/
def Obligations.RoundFunctionsBitByBit : Prop :=
  ∀ (x y z : Word) (i : Nat), i < 32 →
    (ch x y z).getLsbD i = (if x.getLsbD i then y.getLsbD i else z.getLsbD i) ∧
    ((parity x y z).getLsbD i = true ↔
      ((x.getLsbD i).toNat + (y.getLsbD i).toNat + (z.getLsbD i).toNat) % 2 = 1) ∧
    ((maj x y z).getLsbD i = true ↔
      2 ≤ (x.getLsbD i).toNat + (y.getLsbD i).toNat + (z.getLsbD i).toNat)

/-- Derived (00_scope.md R9, 42_compression.md R201). A rotate loses no bit: bit i goes to bit i + n modulo 32; a rotate
by n is undone by one by 32 - n; and rotl(x, 30) is the right rotation by 2. -/
def Obligations.RotateLosesNoBit : Prop :=
  ∀ (x : Word) (n : Nat), 0 < n → n < 32 →
    (∀ i, i < 32 → (rotl x n).getLsbD ((i + n) % 32) = x.getLsbD i) ∧
    rotl (rotl x n) (32 - n) = x ∧ rotl x 30 = (x >>> 2) ||| (x <<< 30)

/-- 42_compression.md R210 and R211. One round: the round sum comes to index 0, d[1] is rotated by 30 after f_g has read
it, and each word moves to the next higher index. -/
def Obligations.RoundMixesAndMovesTheWords : Prop :=
  ∀ (t : Nat) (w : Word) (d : Words5),
    (round t w d).w0 =
      rotl d.w0 5 + d.w4 + w + roundConstant (t / 20) + roundFunction (t / 20) d.w1 d.w2 d.w3 ∧
    (round t w d).w1 = d.w0 ∧ (round t w d).w2 = rotl d.w1 30 ∧ (round t w d).w3 = d.w2 ∧
    (round t w d).w4 = d.w3

/-- 42_compression.md R203 and R204. The message schedule of the buffer: words 0 to 15 are its big-endian words, words 16
to 79 follow the recurrence. -/
def Obligations.ScheduleExpandsTheBlock : Prop :=
  ∀ m : Memory,
    (schedule m.blockWords).length = 80 ∧
    (∀ t, t < 16 → (schedule m.blockWords).getD t 0 =
      be32 (m.read (4 * t)) (m.read (4 * t + 1)) (m.read (4 * t + 2)) (m.read (4 * t + 3))) ∧
    (∀ t, 16 ≤ t → t < 80 → (schedule m.blockWords).getD t 0 =
      rotl ((schedule m.blockWords).getD (t - 3) 0 ^^^ (schedule m.blockWords).getD (t - 8) 0 ^^^
        (schedule m.blockWords).getD (t - 14) 0 ^^^ (schedule m.blockWords).getD (t - 16) 0) 1)

/-- 42_compression.md R213, R214 and R216 (with R209's start). COMPRESS: the working copy starts as H, the rounds 0 to 79
run in order on their schedule words, the working copy is added into H word by word, and FILL is 0; BUF, COUNT and FIN are
not written. -/
def Obligations.CompressRunsTheRoundsAndFeedsForward : Prop :=
  ∀ (ret : Ret) (s : State) (d : Words5),
    d = (List.range 80).foldl (fun d t => round t ((schedule s.buf.blockWords).getD t 0) d) s.h →
    (compress ret s).h = ⟨s.h.w0 + d.w0, s.h.w1 + d.w1, s.h.w2 + d.w2, s.h.w3 + d.w3, s.h.w4 + d.w4⟩ ∧
    (compress ret s).fill = 0 ∧ (compress ret s).buf = s.buf ∧ (compress ret s).count = s.count ∧
    (compress ret s).fin = s.fin

/-- Derived (42_compression.md R220, R221; COMP's step register and the hidden working state afterwards are the model's,
log entries 6 and 4). The reference datapath, with its 16-word window, one round at an edge, ends a block compression
after 82 edges in the state of COMPRESS as one operation. -/
def Obligations.WindowedDatapathIsCompress : Prop :=
  ∀ s : State, s.phase = .comp → s.compStep = .load →
    clockEdges Config.tBlock s =
      .ok (leaveComp (endCompression (compressWords s.h s.buf.blockWords) s))

/-- Derived (42_compression.md R215, R221; the register that tells the feed-forward edge is the model's, log entry 6). The
feed-forward is the only write to H: an edge that changes H is the last edge of a block compression, and it adds the
working copy into all five words at once. -/
def Obligations.OnlyFeedForwardWritesH : Prop :=
  ∀ s t : State, clockEdge s = .ok t →
    (t.h ≠ s.h → s.phase = .comp ∧ s.compStep = .feed) ∧
    (s.phase = .comp → s.compStep = .feed →
      t.h = ⟨s.h.w0 + s.d.w0, s.h.w1 + s.d.w1, s.h.w2 + s.d.w2, s.h.w3 + s.d.w3, s.h.w4 + s.d.w4⟩)

/-! ### Byte order -/

/-- 20_memory.md R72. In every block word the byte at the lower address is the more significant. -/
def Obligations.LowerAddressIsMoreSignificant : Prop :=
  ∀ (m : Memory) (i j : Nat), i < 16 → j < 4 →
    (m.blockWord i).extractLsb' (24 - 8 * j) 8 = m.read (4 * i + j)

/-- 20_memory.md R73. The length field stands at buffer addresses 56 to 63, most significant byte first, and no other byte
is written. -/
def Obligations.LengthFieldIsBigEndian : Prop :=
  ∀ (m : Memory) (len : BitVec 64), m.wf = true →
    (∀ k, k < 8 → (m.writeLength len).read (56 + k) = len.extractLsb' (56 - 8 * k) 8) ∧
    (∀ a, (a < 56 ∨ 64 ≤ a) → (m.writeLength len).read a = m.read a)

/-- 41_finalize.md R178. The digest's words by their places on the port, and its twenty bytes: byte k is byte k mod 4 of
H[k div 4], most significant first. -/
def Obligations.DigestIsFiveBigEndianWords : Prop :=
  ∀ h : Words5,
    (digestOf h).extractLsb' 128 32 = h.w0 ∧ (digestOf h).extractLsb' 96 32 = h.w1 ∧
    (digestOf h).extractLsb' 64 32 = h.w2 ∧ (digestOf h).extractLsb' 32 32 = h.w3 ∧
    (digestOf h).extractLsb' 0 32 = h.w4 ∧
    ∀ k, k < 20 → digestByte (digestOf h) k =
      (([h.w0, h.w1, h.w2, h.w3, h.w4] : List Word).getD (k / 4) 0).extractLsb' (24 - 8 * (k % 4)) 8

/-! ### ABSORB and UPDATE -/

/-- Derived (40_update.md R140; that the hidden working state d, Q and t is left alone where no block fills is the model's
choice, log entry 4: the spec lets it be anything between compressions; the sequencer's registers being left alone is read
from R140's list of what is written). ABSORB(b) with 0 <= FILL <= 63: the byte lands at BUF[FILL] and nowhere else, COUNT
grows by 8, FIN is not written; FILL grows by 1, or, where that fills the block, the block is compressed into H at once
and FILL is 0. -/
def Obligations.AbsorbTakesOneByte : Prop :=
  ∀ (s : State) (b : Byte), s.buf.wf = true → s.fill.toNat < 64 →
    ∃ t, absorb b s = .ok t ∧
      (∀ a, t.buf.read a = if a = s.fill.toNat then b else s.buf.read a) ∧
      t.count = s.count + 8 ∧ t.fin = s.fin ∧
      (s.fill.toNat < 63 → t.fill.toNat = s.fill.toNat + 1 ∧ t.h = s.h ∧ t.d = s.d ∧ t.q = s.q ∧ t.t = s.t) ∧
      (s.fill.toNat = 63 → t.fill = 0 ∧ t.h = compressBytes s.h (s.buf.readBytes 0 63 ++ [b])) ∧
      t.phase = s.phase ∧ t.opl = s.opl ∧ t.rem = s.rem ∧ t.drop = s.drop ∧ t.pstat = s.pstat ∧
      t.cmds = s.cmds ∧ t.beats = s.beats ∧ t.responses = s.responses

/-- Derived (40_update.md R140 to R145). UPDATE with FIN = 0 and its beats offered completes: its bytes come after those
in BUF; every whole block of that is compressed into H in order, the rest is what BUF holds below FILL; COUNT grows by 8
for each byte; the answer is OK with digest 0. -/
def Obligations.UpdateAbsorbsItsBytes : Prop :=
  ∀ (s : State) (len : BitVec 30) (bytes : List Byte),
    s.buf.wf = true → s.fin = false → s.fill.toNat < 64 → len.toNat ≤ s.beats.length →
    bytes = s.buf.readBytes 0 s.fill.toNat ++ s.beats.take len.toNat →
    ∃ t, exec (.update len) s = .next t ∧
      t.h = hashBlocks (bytes.length / 64) s.h bytes ∧
      t.fill.toNat = bytes.length % 64 ∧
      t.buf.readBytes 0 t.fill.toNat = bytes.drop (64 * (bytes.length / 64)) ∧
      t.count = s.count + BitVec.ofNat 64 (8 * len.toNat) ∧
      t.fin = false ∧ t.beats = s.beats.drop len.toNat ∧ t.rem = 0 ∧ t.phase = .resp ∧
      t.pendingResponse = ⟨0, 0⟩

/-- Derived (40_update.md R140, R144, R145, 20_memory.md R74; three clauses are the model's: an UPDATE still waiting takes
the beats offered, log entry 16; a stale byte keeps its value, where 93_implementation_defined.md I2 allows any, log entry
12; without a block compression the hidden working state is left alone, log entry 4). The frame of UPDATE with FIN = 0,
also of one that still waits for beats. Beat j is stored at address (FILL + j) mod 64, so each such address holds the last
beat stored there and every other byte of memory is unchanged. Besides BUF it writes FILL, COUNT, OPL, REM, DROP, PSTAT
and PHASE; only where a block fills, also H, the hidden working state, RET and COMP's step. FIN, the padding step and all
that stands outside but the beats taken are unchanged. -/
def Obligations.UpdateFrame : Prop :=
  ∀ (s t : State) (len : BitVec 30) (taken : Nat),
    s.buf.wf = true → s.fin = false → taken = min len.toNat s.beats.length → exec (.update len) s = .next t →
    t.fin = s.fin ∧ t.padStep = s.padStep ∧ t.started = s.started ∧ t.rst = s.rst ∧ t.cmds = s.cmds ∧
    t.rspReady = s.rspReady ∧ t.responses = s.responses ∧ t.heldCmd = s.heldCmd ∧ t.heldBeat = s.heldBeat ∧
    t.opl = 0b00 ∧ t.drop = false ∧ t.pstat = .ok ∧ t.rem = len - BitVec.ofNat 30 taken ∧
    t.beats = s.beats.drop taken ∧ t.count = s.count + BitVec.ofNat 64 (8 * taken) ∧
    (∀ a, (∀ j, j < taken → (s.fill.toNat + j) % 64 ≠ a) → t.buf.read a = s.buf.read a) ∧
    (∀ j, j < taken → (∀ j', j < j' → j' < taken → (s.fill.toNat + j') % 64 ≠ (s.fill.toNat + j) % 64) →
      t.buf.read ((s.fill.toNat + j) % 64) = s.beats.getD j 0) ∧
    (s.fill.toNat + taken < 64 →
      t.h = s.h ∧ t.d = s.d ∧ t.q = s.q ∧ t.t = s.t ∧ t.ret = s.ret ∧ t.compStep = s.compStep)

/-- Derived (40_update.md R145, 70_reset_and_hazards.md R291; that the offered beats are absorbed while the engine waits
for the rest is the model's reading, log entry 16). UPDATE with fewer beats offered than LEN absorbs those and waits in
DATA for the rest. -/
def Obligations.UpdateWaitsForItsBeats : Prop :=
  ∀ (s : State) (len : BitVec 30) (bytes : List Byte),
    s.buf.wf = true → s.fin = false → s.fill.toNat < 64 → s.beats.length < len.toNat →
    bytes = s.buf.readBytes 0 s.fill.toNat ++ s.beats →
    ∃ t, exec (.update len) s = .next t ∧
      t.phase = .data ∧ t.rem.toNat = len.toNat - s.beats.length ∧ t.beats = [] ∧ t.fin = false ∧
      t.h = hashBlocks (bytes.length / 64) s.h bytes ∧ t.fill.toNat = bytes.length % 64 ∧
      t.buf.readBytes 0 t.fill.toNat = bytes.drop (64 * (bytes.length / 64)) ∧
      t.count = s.count + BitVec.ofNat 64 (8 * s.beats.length)

/-- Derived (40_update.md R147, 60_exceptions.md R252; that the hidden working state is left alone too is the model's
choice, log entry 4). UPDATE with FIN = 1 takes and discards exactly LEN beats, whatever LEN is, changes nothing of the
architectural state, and answers ALREADY_FINALIZED with digest 0. -/
def Obligations.RefusedUpdateDrainsItsBeats : Prop :=
  ∀ (s : State) (len : BitVec 30), s.fin = true → len.toNat ≤ s.beats.length →
    exec (.update len) s = .next { s with
      opl := 0b00, rem := 0, drop := true, pstat := .alreadyFinalized, phase := .resp,
      beats := s.beats.drop len.toNat } ∧
    ∀ t, exec (.update len) s = .next t → t.pendingResponse = ⟨1, 0⟩

/-- Derived (40_update.md R147, 70_reset_and_hazards.md R291; that the offered beats are discarded while the engine waits
for the rest is the model's reading, log entry 16; that the hidden working state is left alone too is the model's choice,
log entry 4). A refused UPDATE with fewer beats offered than LEN discards those and waits in DATA for the rest. -/
def Obligations.RefusedUpdateWaitsForItsBeats : Prop :=
  ∀ (s : State) (len : BitVec 30), s.fin = true → s.beats.length < len.toNat →
    exec (.update len) s = .next { s with
      opl := 0b00, rem := len - BitVec.ofNat 30 s.beats.length, drop := true, pstat := .alreadyFinalized,
      phase := .data, beats := [] }

/-- Derived (40_update.md R148; that the hidden working state is left alone too is the model's choice, log entry 4). The
empty UPDATE takes no beats and changes no architectural state; it answers OK where FIN = 0 and ALREADY_FINALIZED where
FIN = 1. -/
def Obligations.EmptyUpdateChangesNothing : Prop :=
  ∀ s : State,
    (s.fin = false → exec (.update 0) s = .next { s with
      opl := 0b00, rem := 0, drop := false, pstat := .ok, phase := .resp }) ∧
    (s.fin = true → exec (.update 0) s = .next { s with
      opl := 0b00, rem := 0, drop := true, pstat := .alreadyFinalized, phase := .resp })

/-- Derived (40_update.md R146, the core correctness property). Two UPDATEs leave the architectural state of one UPDATE of
both byte ranges, and a FINISH after either answers the same. -/
def Obligations.ChunkingIndependence : Prop :=
  ∀ (s : State) (a b n : BitVec 30),
    s.buf.wf = true → s.fin = false → s.fill.toNat < 64 →
    a.toNat + b.toNat = n.toNat → n.toNat ≤ s.beats.length →
    ∃ t u v x y, exec (.update a) s = .next t ∧ exec (.update b) (takeResponse t) = .next u ∧
      exec (.update n) s = .next v ∧
      u.h = v.h ∧ u.fill = v.fill ∧ u.count = v.count ∧ u.fin = v.fin ∧ u.beats = v.beats ∧
      Memory.AgreeBelow v.fill.toNat u.buf v.buf ∧
      exec .finish (takeResponse u) = .next x ∧ exec .finish (takeResponse v) = .next y ∧
      x.pendingResponse = y.pendingResponse

/-! ### FINISH -/

/-- Derived (41_finalize.md R170, R174, R175; that REM and DROP are left alone, t.rem = s.rem and t.drop = s.drop, is the
model's reading, log entry 15). FINISH with FIN = 0 and FILL = n <= 63 completes. It pads the n bytes in BUF: 0x80 at n,
zeros, and the length field, which is COUNT as it stood, in this block where n <= 55, else in a second block of zeros; it
compresses the one or two blocks into H; FILL is 0, COUNT is unchanged, FIN is 1 and the answer is OK with the digest of
H. BUF holds the last padded block. Besides these it writes the hidden working state, RET, COMP's and PAD's steps, OPL,
PSTAT and PHASE; all else is unchanged. -/
def Obligations.FinishPadsAndFinalizes : Prop :=
  ∀ (s : State) (m : List Byte), s.buf.wf = true → s.fin = false → s.fill.toNat < 64 →
    m = s.buf.readBytes 0 s.fill.toNat →
    ∃ t, exec .finish s = .next t ∧
      (∀ block, s.fill.toNat ≤ 55 →
        block = m ++ 0x80 :: List.replicate (55 - s.fill.toNat) 0 ++ be64bytes s.count →
        t.h = compressBytes s.h block ∧ t.buf.readBytes 0 64 = block) ∧
      (∀ block₁ block₂, 56 ≤ s.fill.toNat →
        block₁ = m ++ 0x80 :: List.replicate (63 - s.fill.toNat) 0 →
        block₂ = List.replicate 56 0 ++ be64bytes s.count →
        t.h = compressBytes (compressBytes s.h block₁) block₂ ∧ t.buf.readBytes 0 64 = block₂) ∧
      (∀ a, 64 ≤ a → t.buf.read a = s.buf.read a) ∧
      t.fill = 0 ∧ t.count = s.count ∧ t.fin = true ∧
      t.phase = .resp ∧ t.opl = 0b01 ∧ t.pstat = .ok ∧ t.pendingResponse = ⟨0, digestOf t.h⟩ ∧
      t.rem = s.rem ∧ t.drop = s.drop ∧ t.started = s.started ∧ t.rst = s.rst ∧ t.cmds = s.cmds ∧
      t.beats = s.beats ∧ t.rspReady = s.rspReady ∧ t.responses = s.responses ∧ t.heldCmd = s.heldCmd ∧
      t.heldBeat = s.heldBeat

/-- Derived (41_finalize.md R176; that REM and DROP are left alone is the model's reading, log entry 15, and that the
hidden working state is, its choice, log entry 4). Once finalised, FINISH answers the same digest again, without padding
or compression: it writes OPL, PSTAT and PHASE and nothing else. -/
def Obligations.FinishIsIdempotent : Prop :=
  ∀ s : State, s.fin = true →
    exec .finish s = .next { s with opl := 0b01, pstat := .ok, phase := .resp } ∧
    ∀ t, exec .finish s = .next t → t.pendingResponse = ⟨0, digestOf s.h⟩

/-! ### GET and illegal words -/

/-- Derived (41_finalize.md R180, R181; that REM and DROP are left alone is the model's reading, log entry 15, and that
the hidden working state is, its choice, log entry 4). GET is the word 0x80000000, and with LEN not 0 the word is ILLEGAL.
GET answers OK with the digest where FIN = 1, and NOT_FINALIZED with digest 0 where FIN = 0. In both cases it writes OPL,
PSTAT and PHASE and nothing else. -/
def Obligations.GetAnswersIfFinalized : Prop :=
  decode 0x80000000 = .get ∧ (∀ len, len ≠ 0 → decode (packWord 0b10 len) = .illegal (packWord 0b10 len)) ∧
  ∀ s : State,
    (s.fin = true → exec .get s = .next { s with opl := 0b10, pstat := .ok, phase := .resp } ∧
      ∀ t, exec .get s = .next t → t.pendingResponse = ⟨0, digestOf s.h⟩) ∧
    (s.fin = false → exec .get s = .next { s with opl := 0b10, pstat := .notFinalized, phase := .resp } ∧
      ∀ t, exec .get s = .next t → t.pendingResponse = ⟨2, 0⟩)

/-- Derived (41_finalize.md R181). Running GET and then any command sequence gives the same responses to that sequence as
running it alone. -/
def Obligations.GetIsInvisible : Prop :=
  ∀ (s : State) (words : List (BitVec 32)),
    answers (0x80000000 :: words) s =
      (if s.fin then ⟨0, digestOf s.h⟩ else ⟨2, 0⟩) :: answers words s

/-- Derived (30_encoding.md R110, 60_exceptions.md R254; that REM, DROP and the hidden working state are left alone too is
the model's, log entries 15 and 4). The three kinds of illegal word, and no other, decode to ILLEGAL. Such a word is
accepted like any command, takes no beats and changes no architectural state, whatever FIN is; the answer is
ILLEGAL_COMMAND with digest 0. -/
def Obligations.IllegalWordsAreAnswered : Prop :=
  ∀ word : BitVec 32,
    (decode word = .illegal word ↔
      word.extractLsb' 30 2 = 0b11 ∨
      (word.extractLsb' 30 2 = 0b01 ∧ word.extractLsb' 0 30 ≠ 0) ∨
      (word.extractLsb' 30 2 = 0b10 ∧ word.extractLsb' 0 30 ≠ 0)) ∧
    (∀ s : State, ∃ op, exec (.illegal word) s = .next { s with
        opl := op, pstat := .illegalCommand, phase := .resp } ∧
      ∀ t, exec (.illegal word) s = .next t → t.pendingResponse = ⟨3, 0⟩) ∧
    ∀ (s : State) (rest : List (BitVec 32)), decode word = .illegal word → s.cmdReady = true → s.cmds = word :: rest →
      ∃ op, clockEdge s = .ok { s with
        cmds := rest, opl := op, pstat := .illegalCommand, phase := .resp }

/-! ### The invariant -/

/-- Derived (10_state.md R47; the invariant's clauses about RET and the steps of PAD and COMP are about the model's
registers, log entries 5 and 6, and BUF's value at reset is log entry 2). The reset state meets the invariant. -/
def Obligations.ResetStateMeetsTheInvariant : Prop := State.reset.Inv

/-- Derived (10_state.md R34, R37, R38, R45, 20_memory.md R71, 42_compression.md R216, 41_finalize.md R174; the clauses
about RET and the steps of PAD and COMP are about the model's registers, log entries 5 and 6). Every step keeps the
invariant, whatever the host offers and wherever the sequencer stands. -/
def Obligations.EveryStepKeepsTheInvariant : Prop :=
  ∀ s t : State, s.Inv → step s = .next t → t.Inv

/-- Derived (20_memory.md R71, 60_exceptions.md R255). No buffer access is out of range and the engine never stops: a
state of the invariant takes a step to a next state, under reset and without it, whenever the host meets its duties. -/
def Obligations.EngineNeverStops : Prop :=
  ∀ s : State, s.Inv → ((s.rst = true ∧ s.OffersStand) ∨ s.DutiesMet) → ∃ t, step s = .next t

/-- Derived (10_state.md R37, 41_finalize.md R177). Once FIN is 1 no step without reset changes H, BUF, FILL, COUNT or
FIN. -/
def Obligations.FinalizedStateIsFrozen : Prop :=
  ∀ s t : State, s.Inv → s.fin = true → s.rst = false → step s = .next t →
    t.h = s.h ∧ t.buf = s.buf ∧ t.fill = s.fill ∧ t.count = s.count ∧ t.fin = true

/-- Derived (10_state.md R36, 41_finalize.md R182; that one step accepts a FINISH and finalises is the step's grain, log
entry 1, and the register that tells the last edge of padding is the model's, log entry 6). Only a FINISH sets FIN, by the
step that accepts it or by the last edge of its padding, and nothing clears FIN but reset. In every state of the invariant
the padding belongs to a FINISH: OPL is its OP. -/
def Obligations.OnlyFinishSetsFin : Prop :=
  ∀ s t : State, step s = .next t →
    (s.rst = true → t.fin = false) ∧
    (s.rst = false → s.fin = true → t.fin = true) ∧
    (s.rst = false → s.fin = false → t.fin = true →
      (s.phase = .idle ∧ ∃ rest, s.cmds = 0x40000000 :: rest) ∨
      (s.phase = .pad ∧ s.padStep = .done ∧ (s.Inv → s.opl = 0b01)))

/-! ### The message and its digest -/

/-- A fresh engine has absorbed the empty message. Derived (10_state.md R38, R47). -/
def Obligations.FreshEngineHoldsTheEmptyMessage : Prop := Stream [] State.reset

/-- Derived (10_state.md R38). UPDATE with its beats offered extends the absorbed message by them. -/
def Obligations.UpdateExtendsTheMessage : Prop :=
  ∀ (m : List Byte) (s : State) (len : BitVec 30),
    Stream m s → s.buf.wf = true → len.toNat ≤ s.beats.length →
    ∃ t, exec (.update len) s = .next t ∧ Stream (m ++ s.beats.take len.toNat) t ∧ t.buf.wf = true

/-- Derived (41_finalize.md R183, 40_update.md R151). FINISH answers the digest of the padded message of what was
absorbed, whose length field is 8·l modulo 2^64. For l < 2^61 the length field is 8·l itself, and that digest is the
standard one; for longer messages it is the rule-defined one with the wrapped length. -/
def Obligations.FinishAnswersTheStandardDigest : Prop :=
  ∀ (m : List Byte) (s : State), Stream m s → s.buf.wf = true →
    paddedLength m = 8 * m.length % 2 ^ 64 ∧ (m.length < 2 ^ 61 → paddedLength m = 8 * m.length) ∧
    ∃ t, exec .finish s = .next t ∧ t.pendingResponse = ⟨0, digestOf (sha1 m)⟩

/-- Derived (41_finalize.md R183). The padding is the standard one: the number of zero bytes is the least that puts the
length field at the end of a block, and the padded message is whole blocks. -/
def Obligations.PaddingIsTheStandardOne : Prop :=
  ∀ m : List Byte,
    (m.length + 1 + paddingZeros m.length) % 64 = 56 ∧
    (∀ k, (m.length + 1 + k) % 64 = 56 → paddingZeros m.length ≤ k) ∧
    (paddedMessage m).length % 64 = 0

/-- Derived (40_update.md R146, 41_finalize.md R183). However the host cuts a message into UPDATEs, each is answered OK
and the FINISH after them is answered the digest of the whole message: the standard one for less than 2^61 bytes, and for
longer messages the one with the length field modulo 2^64 (40_update.md R151). -/
def Obligations.EngineHashesTheMessage : Prop :=
  ∀ (m : List Byte) (s : State) (chunks : List (BitVec 30)) (total : Nat),
    Stream m s → s.buf.wf = true → total = (chunks.map BitVec.toNat).sum → total ≤ s.beats.length →
    answers (chunks.map (fun len => encode (.update len)) ++ [encode .finish]) s =
      chunks.map (fun _ => ⟨0, 0⟩) ++ [⟨0, digestOf (sha1 (m ++ s.beats.take total))⟩]

/-- Derived (10_state.md R48, R50, 20_memory.md R75; which bytes and hidden registers are still to be read is told by the
steps of PAD and COMP, log entry 6). No response depends on a stale buffer byte, on BUF's contents at reset, or on the
hidden working state: two states that agree on all else take steps to states that agree again, the responses included. -/
def Obligations.StaleBytesReachNoResponse : Prop :=
  ∀ s s' t : State, Same s s' → s.buf.wf = true → s'.buf.wf = true → step s = .next t →
    ∃ t', step s' = .next t' ∧ Same t t'

/-! ### The reference sequencer -/

/-- Derived (41_finalize.md R182, 70_reset_and_hazards.md R300; how edges are counted is the model's reading, log entry
13, and the hidden working state afterwards its choice, log entry 4). A FINISH with FIN = 0 takes the sequencer 86 edges
where FILL <= 55 and 169 where FILL >= 56, to the very state of FINISH as one operation. -/
def Obligations.SequencerRefinesFinish : Prop :=
  ∀ (s : State) (rest : List (BitVec 32)),
    s.phase = .idle → s.fin = false → s.fill.toNat < 64 → s.cmds = 0x40000000 :: rest →
    ∃ t, exec .finish { s with cmds := rest } = .next t ∧
      (s.fill.toNat ≤ 55 → clockEdges 86 s = .ok t) ∧ (56 ≤ s.fill.toNat → clockEdges 169 s = .ok t)

/-- Derived (40_update.md R150, 70_reset_and_hazards.md R300; how edges are counted is the model's reading, log entry 13,
and the hidden working state afterwards its choice, log entry 4). An UPDATE of N bytes from FILL = F takes the sequencer N
+ 82·floor((F + N)/64) + 1 edges, to the very state of UPDATE as one operation. -/
def Obligations.SequencerRefinesUpdate : Prop :=
  ∀ (s : State) (len : BitVec 30) (rest : List (BitVec 32)),
    s.phase = .idle → s.fin = false → s.fill.toNat < 64 → s.cmds = encode (.update len) :: rest →
    len.toNat ≤ s.beats.length →
    ∃ t, exec (.update len) { s with cmds := rest } = .next t ∧
      clockEdges (len.toNat + 82 * ((s.fill.toNat + len.toNat) / 64) + 1) s = .ok t

/-- Derived (40_update.md R147, R150, 41_finalize.md R182, 70_reset_and_hazards.md R300; log entries 13 and 15, and log
entry 4 for the hidden working state). GET, an illegal word and a FINISH with FIN = 1 take one edge, and a refused UPDATE
of N beats N + 1, each to the very state of the command as one operation. -/
def Obligations.SequencerRefinesTheOtherCommands : Prop :=
  ∀ (s : State) (word : BitVec 32) (rest : List (BitVec 32)), s.phase = .idle → s.cmds = word :: rest →
    (decode word = .get ∨ decode word = .illegal word ∨ (decode word = .finish ∧ s.fin = true) →
      ∃ t, exec (decode word) { s with cmds := rest } = .next t ∧ clockEdges 1 s = .ok t) ∧
    (∀ len, decode word = .update len → s.fin = true → len.toNat ≤ s.beats.length →
      ∃ t, exec (decode word) { s with cmds := rest } = .next t ∧ clockEdges (len.toNat + 1) s = .ok t)

/-- Derived (70_reset_and_hazards.md R290, 00_scope.md R14; the step's grain and what is noted at it are the model's, log
entries 1 and 9, and the hidden working state afterwards log entry 4). A step that runs a command leaves the very state,
with the very offers to hold, that its clock edges leave where the offers are noted at each: what came up on a channel
behind an offer that the command took, and stood there at a later edge of the same command, must be held. -/
def Obligations.StepHoldsWhatItsEdgesLeaveStanding : Prop :=
  ∀ (s : State) (word : BitVec 32) (rest : List (BitVec 32)),
    s.DutiesMet → s.phase = .idle → s.fill.toNat < 64 → s.cmds = word :: rest →
    ∃ k t, notedEdges k s = .ok t ∧ step s = .next t

/-- Derived (70_reset_and_hazards.md R301; how edges are counted is the model's reading, log entry 13). Every command
whose beats are offered is answered in a bounded number of edges: at most N + 82·ceil(N/64) + 1 for an UPDATE of N bytes,
169 for FINISH and 1 otherwise. -/
def Obligations.CommandsCompleteInBoundedEdges : Prop :=
  ∀ (s : State) (word : BitVec 32) (rest : List (BitVec 32)) (bound : Nat),
    s.Inv → s.phase = .idle → s.cmds = word :: rest →
    (∀ len, decode word = .update len → len.toNat ≤ s.beats.length) →
    (bound = match decode word with
      | .update len => len.toNat + 82 * ((len.toNat + 63) / 64) + 1
      | .finish => 169
      | .get => 1
      | .illegal _ => 1) →
    ∃ k t, k ≤ bound ∧ clockEdges k s = .ok t ∧ t.phase = .resp

/-! ### Listings -/

/-- Derived (30_encoding.md R114, R115). An UPDATE line of N bytes encodes as the command word N followed by them; an
UPDATE of any number of bytes expands to UPDATE lines of at most 2^30 - 1 bytes each, whose bytes in order are all of
them. -/
def Obligations.LongUpdateExpands : Prop :=
  (∀ bytes : List Byte, bytes.length < 2 ^ 30 →
    (Line.update bytes).encoding = some (BitVec.ofNat 32 bytes.length, bytes)) ∧
  ∀ bytes : List Byte, ∃ pieces : List (List Byte),
    longUpdate bytes = pieces.map Line.update ∧ pieces.flatten = bytes ∧
    ∀ piece ∈ pieces, piece.length < 2 ^ 30
end

