-- ==== Sys2Proof/Laws/Bits.lean ====
section
/-! SUPPORT. Bit by bit: the concatenations of the command word, of big-endian words and of the digest, and the rotate.
Later proofs cite these and do not unfold the concatenations. -/

namespace Sys2Proof

/-! ### The command word -/

theorem getLsbD_packWord (op : BitVec 2) (len : BitVec 30) (i : Nat) :
    (packWord op len).getLsbD i = if i < 30 then len.getLsbD i else op.getLsbD (i - 30) := by
  unfold packWord
  rw [BitVec.getLsbD_append]

@[simp] theorem opField_packWord (op : BitVec 2) (len : BitVec 30) : opField (packWord op len) = op := by
  apply BitVec.eq_of_getLsbD_eq
  intro i hi
  have h : ¬(30 + i < 30) := by omega
  rw [opField, BitVec.getLsbD_extractLsb', getLsbD_packWord, if_neg h, Nat.add_sub_cancel_left]
  simp [hi]

@[simp] theorem lenField_packWord (op : BitVec 2) (len : BitVec 30) : lenField (packWord op len) = len := by
  apply BitVec.eq_of_getLsbD_eq
  intro i hi
  rw [lenField, BitVec.getLsbD_extractLsb', Nat.zero_add, getLsbD_packWord, if_pos hi]
  simp [hi]

/-- A command word is its two fields. -/
theorem packWord_fields (word : BitVec 32) : packWord (opField word) (lenField word) = word := by
  apply BitVec.eq_of_getLsbD_eq
  intro i hi
  rw [getLsbD_packWord]
  by_cases h : i < 30
  · simp [h, lenField]
  · have h2 : i - 30 < 2 := by omega
    have h3 : 30 + (i - 30) = i := by omega
    rw [if_neg h, opField, BitVec.getLsbD_extractLsb', h3]
    simp [h2]

namespace Machine

/-! ### Big-endian values -/

theorem getLsbD_be32 (b0 b1 b2 b3 : Byte) (i : Nat) :
    (be32 b0 b1 b2 b3).getLsbD i =
      if i < 8 then b3.getLsbD i else if i < 16 then b2.getLsbD (i - 8)
      else if i < 24 then b1.getLsbD (i - 16) else b0.getLsbD (i - 24) := by
  unfold be32
  rw [BitVec.getLsbD_append, BitVec.getLsbD_append, BitVec.getLsbD_append]
  by_cases h1 : i < 8
  · simp [h1]
  · by_cases h2 : i < 16
    · have h3 : i - 8 < 8 := by omega
      simp [h1, h2, h3]
    · by_cases h4 : i < 24
      · have h3 : ¬(i - 8 < 8) := by omega
        have h5 : i - 8 - 8 < 8 := by omega
        have h6 : i - 8 - 8 = i - 16 := by omega
        have h7 : i - 16 < 8 := by omega
        simp [h1, h2, h3, h4, h6, h7]
      · have h3 : ¬(i - 8 < 8) := by omega
        have h5 : ¬(i - 8 - 8 < 8) := by omega
        have h6 : i - 8 - 8 - 8 = i - 24 := by omega
        simp only [h1, h2, h3, h4, h5, h6, if_false]

theorem getLsbD_digestOf (h : Words5) (i : Nat) :
    (digestOf h).getLsbD i =
      if i < 32 then h.w4.getLsbD i else if i < 64 then h.w3.getLsbD (i - 32)
      else if i < 96 then h.w2.getLsbD (i - 64) else if i < 128 then h.w1.getLsbD (i - 96)
      else h.w0.getLsbD (i - 128) := by
  unfold digestOf
  rw [BitVec.getLsbD_append, BitVec.getLsbD_append, BitVec.getLsbD_append, BitVec.getLsbD_append]
  have e1 : i - 32 - 32 = i - 64 := by omega
  have e2 : i - 64 - 32 = i - 96 := by omega
  have e3 : i - 96 - 32 = i - 128 := by omega
  rw [e1, e2, e3]
  by_cases h1 : i < 32
  · simp only [h1, if_true]
  · by_cases h2 : i < 64
    · have h5 : i - 32 < 32 := by omega
      simp only [h1, h2, h5, if_true, if_false]
    · have h5 : ¬(i - 32 < 32) := by omega
      by_cases h3 : i < 96
      · have h6 : i - 64 < 32 := by omega
        simp only [h1, h2, h3, h5, h6, if_true, if_false]
      · have h6 : ¬(i - 64 < 32) := by omega
        by_cases h4 : i < 128
        · have h7 : i - 96 < 32 := by omega
          simp only [h1, h2, h3, h4, h5, h6, h7, if_true, if_false]
        · have h7 : ¬(i - 96 < 32) := by omega
          simp only [h1, h2, h3, h4, h5, h6, h7, if_false]

/-- Where a bit of a rotated word comes from. -/
theorem getLsbD_rotl (x : Word) {n i : Nat} (hn : n < 32) (hi : i < 32) :
    (rotl x n).getLsbD i = if i < n then x.getLsbD (32 - n + i) else x.getLsbD (i - n) := by
  unfold rotl
  rw [BitVec.getLsbD_or, BitVec.getLsbD_shiftLeft, BitVec.getLsbD_ushiftRight]
  by_cases h : i < n
  · simp [h]
  · have hz : x.getLsbD (32 - n + i) = false := BitVec.getLsbD_of_ge _ _ (by omega)
    simp [h, hi, hz]

end Machine

end Sys2Proof
end

