-- ==== Sys2Proof/Laws/Compression.lean ====
section
/-! SUPPORT. The small lemmas of block compression: the schedule's length and order, and how the rounds chain. -/

namespace Sys2Proof.Machine

theorem length_scheduleExtend : ∀ (k : Nat) (earlier : List Word),
    (scheduleExtend k earlier).length = earlier.length + k
  | 0, _ => rfl
  | k + 1, earlier => by
    rw [scheduleExtend, length_scheduleExtend k, List.length_cons]
    omega

/-- More schedule words are the old ones with new ones in front. -/
theorem scheduleExtend_suffix : ∀ (k : Nat) (earlier : List Word),
    ∃ newer, newer.length = k ∧ scheduleExtend k earlier = newer ++ earlier
  | 0, earlier => ⟨[], rfl, rfl⟩
  | k + 1, earlier => by
    obtain ⟨newer, hl, he⟩ := scheduleExtend_suffix k (scheduleNext earlier :: earlier)
    exact ⟨newer ++ [scheduleNext earlier], by simp [hl], by simp [scheduleExtend, he]⟩

/-- Extending in two parts. -/
theorem scheduleExtend_add : ∀ (j k : Nat) (earlier : List Word),
    scheduleExtend (j + k) earlier = scheduleExtend k (scheduleExtend j earlier)
  | 0, k, earlier => by rw [Nat.zero_add]; rfl
  | j + 1, k, earlier => by
    rw [Nat.add_right_comm]
    exact scheduleExtend_add j k _

/-- The schedule of sixteen words has eighty. -/
theorem length_schedule {block : List Word} (h : block.length = 16) : (schedule block).length = 80 := by
  simp [schedule, length_scheduleExtend, h, Config.rounds, Config.blockWords]

@[simp] theorem runRounds_nil (t : Nat) (d : Words5) : runRounds t [] d = d := rfl

@[simp] theorem runRounds_cons (t : Nat) (w : Word) (ws : List Word) (d : Words5) :
    runRounds t (w :: ws) d = runRounds (t + 1) ws (round t w d) := rfl

/-- Rounds chain: the later ones start where the earlier ones ended (42_compression.md R213). -/
theorem runRounds_append : ∀ (ws ws' : List Word) (t : Nat) (d : Words5),
    runRounds t (ws ++ ws') d = runRounds (t + ws.length) ws' (runRounds t ws d)
  | [], ws', t, d => rfl
  | w :: ws, ws', t, d => by
    rw [List.cons_append, runRounds_cons, runRounds_cons, runRounds_append ws ws', List.length_cons]
    congr 1
    omega

/-- What a window position reads after a write. -/
theorem windowGet_windowSet (q : Vector Word 16) (i j : Nat) (w : Word) :
    windowGet (windowSet q i w) j = if i % 16 = j % 16 then w else windowGet q j := by
  unfold windowGet windowSet
  exact Vector.getElem_set _ _

end Sys2Proof.Machine
end

