-- ==== Sys2Proof/Laws/Memory.lean ====
section
/-! SUPPORT. The accumulation buffer: what a read gives after each write, and that every write keeps the canonical form
(`Memory.wf`). Later proofs cite these and do not unfold `Memory.read` or `Memory.write`. -/

namespace Sys2Proof.Machine.Memory

open Sys2Proof

/-! ### One byte -/

@[simp] theorem read_nil (a : Nat) : read [] a = Config.bufReset a := rfl

/-- Nothing is listed below the lower bound of a canonical list. -/
theorem read_of_lt_wfFrom : ∀ {m : Memory} {lo a : Nat}, wfFrom lo m = true → a < lo → read m a = Config.bufReset a
  | [], _, _, _, _ => rfl
  | (k, v) :: m, lo, a, h, ha => by
    simp only [wfFrom, Bool.and_eq_true, decide_eq_true_eq] at h
    obtain ⟨⟨⟨hk, _⟩, _⟩, hm⟩ := h
    have hne : a ≠ k := by omega
    simp only [read, if_neg hne]
    exact read_of_lt_wfFrom hm (by omega)

/-- A canonical list from a higher bound is one from a lower bound. -/
theorem wfFrom_mono : ∀ {m : Memory} {lo lo' : Nat}, wfFrom lo m = true → lo' ≤ lo → wfFrom lo' m = true
  | [], _, _, _, _ => rfl
  | (k, v) :: m, lo, lo', h, hlo => by
    simp only [wfFrom, Bool.and_eq_true, decide_eq_true_eq] at h ⊢
    exact ⟨⟨⟨by omega, h.1.1.2⟩, h.1.2⟩, h.2⟩

/-- A write keeps the canonical form. -/
theorem wfFrom_write : ∀ {m : Memory} {lo a : Nat} {v : Byte}, wfFrom lo m = true → lo ≤ a → a < Config.blockBytes →
    wfFrom lo (write m a v) = true
  | [], lo, a, v, _, hlo, ha => by
    unfold write
    split
    · rfl
    · simp_all [wfFrom]
  | (k, w) :: m, lo, a, v, h, hlo, ha => by
    have h' := h
    simp only [wfFrom, Bool.and_eq_true, decide_eq_true_eq] at h
    obtain ⟨⟨⟨hk, hk64⟩, hw⟩, hm⟩ := h
    unfold write
    split
    · split
      · exact h'
      · simp only [wfFrom, Bool.and_eq_true, decide_eq_true_eq]
        exact ⟨⟨⟨hlo, ha⟩, by assumption⟩, ⟨⟨by omega, hk64⟩, hw⟩, hm⟩
    · split
      · split
        · exact wfFrom_mono hm (by omega)
        · simp only [wfFrom, Bool.and_eq_true, decide_eq_true_eq]
          subst_vars
          exact ⟨⟨⟨hk, hk64⟩, by assumption⟩, hm⟩
      · simp only [wfFrom, Bool.and_eq_true, decide_eq_true_eq]
        exact ⟨⟨⟨hk, hk64⟩, hw⟩, wfFrom_write hm (by omega) ha⟩

/-- A write inside the buffer keeps the canonical form. -/
theorem wf_write {m : Memory} {a : Nat} {v : Byte} (h : m.wf = true) (ha : a < 64) : (write m a v).wf = true :=
  wfFrom_write h (Nat.zero_le a) ha

/-- What a canonical buffer reads as after a write, from any lower bound. -/
theorem read_write_from : ∀ {m : Memory} {lo a : Nat} {v : Byte} (b : Nat), wfFrom lo m = true →
    read (write m a v) b = if b = a then v else read m b
  | [], lo, a, v, b, _ => by
    unfold write
    by_cases hv : v = Config.bufReset a <;> by_cases hb : b = a <;> simp_all [read]
  | (k, w) :: m, lo, a, v, b, h => by
    simp only [wfFrom, Bool.and_eq_true, decide_eq_true_eq] at h
    obtain ⟨⟨⟨hk, _⟩, _⟩, hm⟩ := h
    unfold write
    split
    · rename_i hak
      have hka : a ≠ k := by omega
      split
      · rename_i hv
        by_cases hb : b = a
        · subst hb
          simp only [read, if_neg hka, if_true]
          rw [read_of_lt_wfFrom hm (by omega)]
          exact hv.symm
        · simp [hb]
      · by_cases hb : b = a <;> simp [read, hb]
    · rename_i hak
      split
      · rename_i hak'
        subst hak'
        split
        · rename_i hv
          by_cases hb : b = a
          · subst hb
            simp only [if_true]
            rw [read_of_lt_wfFrom hm (by omega)]
            exact hv.symm
          · simp [read, hb]
        · by_cases hb : b = a <;> simp [read, hb]
      · rename_i hak'
        have hne : a ≠ k := hak'
        by_cases hb : b = k
        · subst hb
          simp [read, Ne.symm hne]
        · simp only [read, if_neg hb]
          exact read_write_from b hm

/-- Read after write: the written byte at its address, and every other byte as before. -/
theorem read_write {m : Memory} {a : Nat} {v : Byte} (h : m.wf = true) (b : Nat) :
    read (write m a v) b = if b = a then v else read m b :=
  read_write_from b h

/-! ### Consecutive bytes -/

/-- Consecutive writes inside the buffer keep the canonical form. -/
theorem wf_writeBytes : ∀ {vs : List Byte} {m : Memory} {a : Nat}, m.wf = true → a + vs.length ≤ 64 →
    (writeBytes m a vs).wf = true
  | [], _, _, h, _ => h
  | v :: vs, m, a, h, ha => by
    simp only [List.length_cons] at ha
    exact wf_writeBytes (vs := vs) (m := write m a v) (a := a + 1) (wf_write h (by omega)) (by omega)

/-- What consecutive writes leave: the byte of the list at an address inside, the old byte outside. -/
theorem read_writeBytes : ∀ {vs : List Byte} {m : Memory} {a : Nat} (b : Nat), m.wf = true → a + vs.length ≤ 64 →
    read (writeBytes m a vs) b = if a ≤ b ∧ b < a + vs.length then vs.getD (b - a) 0 else read m b
  | [], m, a, b, _, _ => by
    have hb : ¬(a ≤ b ∧ b < a + ([] : List Byte).length) := by simp
    rw [if_neg hb]
    rfl
  | v :: vs, m, a, b, h, ha => by
    simp only [List.length_cons] at ha ⊢
    have ih := read_writeBytes (vs := vs) (m := write m a v) (a := a + 1) b (wf_write h (by omega)) (by omega)
    simp only [writeBytes]
    rw [ih, read_write h]
    by_cases h1 : b = a
    · subst h1
      simp
    · by_cases h2 : a + 1 ≤ b ∧ b < a + 1 + vs.length
      · have h3 : a ≤ b ∧ b < a + (vs.length + 1) := by omega
        have h4 : b - a = (b - (a + 1)) + 1 := by omega
        rw [if_pos h2, if_pos h3, h4, List.getD_cons_succ]
      · have h3 : ¬(a ≤ b ∧ b < a + (vs.length + 1)) := by omega
        rw [if_neg h2, if_neg h3, if_neg h1]

/-! ### The writes of ABSORB and PAD -/

/-- A store answers a buffer exactly at an address of the buffer. -/
theorem store_eq_ok {m m' : Memory} {a : Nat} {v : Byte} :
    m.store a v = .ok m' ↔ a < 64 ∧ m' = write m a v := by
  unfold store Config.blockBytes
  split <;> simp_all [eq_comm]

/-- A store faults exactly at an address that does not exist. -/
theorem store_eq_error {m : Memory} {a : Nat} {v : Byte} {f : Fault} :
    m.store a v = .error f ↔ 64 ≤ a ∧ f = .bufferAddress a := by
  unfold store Config.blockBytes
  split <;> simp_all [eq_comm]

/-- Zero fill up to an address of the buffer keeps the canonical form. -/
theorem wf_zeroFill {m : Memory} {a b : Nat} (h : m.wf = true) (ha : a ≤ 64) (hb : b ≤ 64) :
    (zeroFill m a b).wf = true := by
  unfold zeroFill
  exact wf_writeBytes h (by simp only [List.length_replicate]; omega)

/-- Zero fill: zeros from `a` to below `b`, the old bytes elsewhere. -/
theorem read_zeroFill {m : Memory} {a b : Nat} (c : Nat) (h : m.wf = true) (ha : a ≤ 64) (hb : b ≤ 64) :
    read (zeroFill m a b) c = if a ≤ c ∧ c < b then 0 else read m c := by
  unfold zeroFill
  rw [read_writeBytes c h (by simp only [List.length_replicate]; omega), List.length_replicate]
  by_cases h1 : a ≤ c ∧ c < b
  · have h2 : a ≤ c ∧ c < a + (b - a) := by omega
    rw [if_pos h1, if_pos h2]
    simp [List.getD_eq_getElem?_getD, List.getElem?_replicate]
    split <;> rfl
  · have h2 : ¬(a ≤ c ∧ c < a + (b - a)) := by omega
    rw [if_neg h1, if_neg h2]

/-- The length field keeps the canonical form. -/
theorem wf_writeLength {m : Memory} {len : BitVec 64} (h : m.wf = true) : (writeLength m len).wf = true := by
  unfold writeLength
  exact wf_writeBytes h (by simp [Config.lengthFieldOffset, be64bytes])

/-- The length field stands at 56..63 and every other byte is as before. -/
theorem read_writeLength {m : Memory} {len : BitVec 64} (a : Nat) (h : m.wf = true) :
    read (writeLength m len) a = if 56 ≤ a ∧ a < 64 then (be64bytes len).getD (a - 56) 0 else read m a := by
  unfold writeLength
  rw [read_writeBytes a h (by simp [Config.lengthFieldOffset, be64bytes])]
  simp [Config.lengthFieldOffset, be64bytes]

/-! ### Reads of several bytes -/

@[simp] theorem length_readBytes (m : Memory) (a n : Nat) : (readBytes m a n).length = n := by simp [readBytes]

@[simp] theorem length_blockWords (m : Memory) : (blockWords m).length = 16 := by
  simp [blockWords, Config.blockWords]

/-- Byte k of a read of several bytes. -/
theorem getElem_readBytes (m : Memory) (a n k : Nat) (h : k < (readBytes m a n).length) :
    (readBytes m a n)[k] = read m (a + k) := by
  simp [readBytes]

/-- Two buffers that agree on the bytes read give the same bytes. -/
theorem readBytes_congr {m m' : Memory} {a n : Nat} (h : ∀ k, k < n → read m (a + k) = read m' (a + k)) :
    readBytes m a n = readBytes m' a n := by
  apply List.map_congr_left
  intro k hk
  exact h k (List.mem_range.mp hk)

/-- Two buffers that agree on the block have the same block words. -/
theorem blockWords_congr {m m' : Memory} (h : ∀ a, a < 64 → read m a = read m' a) :
    blockWords m = blockWords m' := by
  apply List.map_congr_left
  intro i hi
  have hi' : i < 16 := List.mem_range.mp hi
  simp only [blockWord, readWord]
  rw [h _ (by omega), h _ (by omega), h _ (by omega), h _ (by omega)]

/-- The block words are the words of the 64 block bytes. -/
theorem blockWords_eq_wordsOfBytes (m : Memory) : blockWords m = wordsOfBytes (readBytes m 0 64) := by
  have hr : List.range 64 = [0, 1, 2, 3, 4, 5, 6, 7, 8, 9, 10, 11, 12, 13, 14, 15, 16, 17, 18, 19, 20, 21, 22, 23, 24,
      25, 26, 27, 28, 29, 30, 31, 32, 33, 34, 35, 36, 37, 38, 39, 40, 41, 42, 43, 44, 45, 46, 47, 48, 49, 50, 51, 52,
      53, 54, 55, 56, 57, 58, 59, 60, 61, 62, 63] := by decide
  have hq : List.range 16 = [0, 1, 2, 3, 4, 5, 6, 7, 8, 9, 10, 11, 12, 13, 14, 15] := by decide
  simp [blockWords, Config.blockWords, readBytes, hr, hq, wordsOfBytes, blockWord, readWord]

end Sys2Proof.Machine.Memory
end

