-- ==== Sys2Proof/Laws/State.lean ====
section
/-! SUPPORT. What each update of the state does to each field: the changed fields and the unchanged ones, so that no later
proof unfolds a record update. Conditional updates (`compressIfFull`, `padOverflow`, `noteOffers`) have their lemmas in
Laws/Ops.lean. -/

namespace Sys2Proof.Machine

/-! ### latchOp -/

@[simp] theorem latchOp_h (op : BitVec 2) (s : State) : (latchOp op s).h = s.h := rfl
@[simp] theorem latchOp_buf (op : BitVec 2) (s : State) : (latchOp op s).buf = s.buf := rfl
@[simp] theorem latchOp_fill (op : BitVec 2) (s : State) : (latchOp op s).fill = s.fill := rfl
@[simp] theorem latchOp_count (op : BitVec 2) (s : State) : (latchOp op s).count = s.count := rfl
@[simp] theorem latchOp_fin (op : BitVec 2) (s : State) : (latchOp op s).fin = s.fin := rfl
@[simp] theorem latchOp_d (op : BitVec 2) (s : State) : (latchOp op s).d = s.d := rfl
@[simp] theorem latchOp_q (op : BitVec 2) (s : State) : (latchOp op s).q = s.q := rfl
@[simp] theorem latchOp_t (op : BitVec 2) (s : State) : (latchOp op s).t = s.t := rfl
@[simp] theorem latchOp_phase (op : BitVec 2) (s : State) : (latchOp op s).phase = s.phase := rfl
@[simp] theorem latchOp_opl (op : BitVec 2) (s : State) : (latchOp op s).opl = op := rfl
@[simp] theorem latchOp_rem (op : BitVec 2) (s : State) : (latchOp op s).rem = s.rem := rfl
@[simp] theorem latchOp_drop (op : BitVec 2) (s : State) : (latchOp op s).drop = s.drop := rfl
@[simp] theorem latchOp_pstat (op : BitVec 2) (s : State) : (latchOp op s).pstat = s.pstat := rfl
@[simp] theorem latchOp_ret (op : BitVec 2) (s : State) : (latchOp op s).ret = s.ret := rfl
@[simp] theorem latchOp_padStep (op : BitVec 2) (s : State) : (latchOp op s).padStep = s.padStep := rfl
@[simp] theorem latchOp_compStep (op : BitVec 2) (s : State) : (latchOp op s).compStep = s.compStep := rfl
@[simp] theorem latchOp_draws (op : BitVec 2) (s : State) : (latchOp op s).draws = s.draws := rfl
@[simp] theorem latchOp_started (op : BitVec 2) (s : State) : (latchOp op s).started = s.started := rfl
@[simp] theorem latchOp_rst (op : BitVec 2) (s : State) : (latchOp op s).rst = s.rst := rfl
@[simp] theorem latchOp_cmds (op : BitVec 2) (s : State) : (latchOp op s).cmds = s.cmds := rfl
@[simp] theorem latchOp_beats (op : BitVec 2) (s : State) : (latchOp op s).beats = s.beats := rfl
@[simp] theorem latchOp_rspReady (op : BitVec 2) (s : State) : (latchOp op s).rspReady = s.rspReady := rfl
@[simp] theorem latchOp_responses (op : BitVec 2) (s : State) : (latchOp op s).responses = s.responses := rfl
@[simp] theorem latchOp_heldCmd (op : BitVec 2) (s : State) : (latchOp op s).heldCmd = s.heldCmd := rfl
@[simp] theorem latchOp_heldBeat (op : BitVec 2) (s : State) : (latchOp op s).heldBeat = s.heldBeat := rfl

/-! ### latchUpdate -/

@[simp] theorem latchUpdate_h (len : BitVec 30) (s : State) : (latchUpdate len s).h = s.h := rfl
@[simp] theorem latchUpdate_buf (len : BitVec 30) (s : State) : (latchUpdate len s).buf = s.buf := rfl
@[simp] theorem latchUpdate_fill (len : BitVec 30) (s : State) : (latchUpdate len s).fill = s.fill := rfl
@[simp] theorem latchUpdate_count (len : BitVec 30) (s : State) : (latchUpdate len s).count = s.count := rfl
@[simp] theorem latchUpdate_fin (len : BitVec 30) (s : State) : (latchUpdate len s).fin = s.fin := rfl
@[simp] theorem latchUpdate_d (len : BitVec 30) (s : State) : (latchUpdate len s).d = s.d := rfl
@[simp] theorem latchUpdate_q (len : BitVec 30) (s : State) : (latchUpdate len s).q = s.q := rfl
@[simp] theorem latchUpdate_t (len : BitVec 30) (s : State) : (latchUpdate len s).t = s.t := rfl
@[simp] theorem latchUpdate_phase (len : BitVec 30) (s : State) : (latchUpdate len s).phase = s.phase := rfl
@[simp] theorem latchUpdate_opl (len : BitVec 30) (s : State) : (latchUpdate len s).opl = 0 := rfl
@[simp] theorem latchUpdate_rem (len : BitVec 30) (s : State) : (latchUpdate len s).rem = len := rfl
@[simp] theorem latchUpdate_drop (len : BitVec 30) (s : State) : (latchUpdate len s).drop = s.fin := rfl
@[simp] theorem latchUpdate_pstat (len : BitVec 30) (s : State) : (latchUpdate len s).pstat = updateStatus s.fin := rfl
@[simp] theorem latchUpdate_ret (len : BitVec 30) (s : State) : (latchUpdate len s).ret = s.ret := rfl
@[simp] theorem latchUpdate_padStep (len : BitVec 30) (s : State) : (latchUpdate len s).padStep = s.padStep := rfl
@[simp] theorem latchUpdate_compStep (len : BitVec 30) (s : State) : (latchUpdate len s).compStep = s.compStep := rfl
@[simp] theorem latchUpdate_draws (len : BitVec 30) (s : State) : (latchUpdate len s).draws = s.draws := rfl
@[simp] theorem latchUpdate_started (len : BitVec 30) (s : State) : (latchUpdate len s).started = s.started := rfl
@[simp] theorem latchUpdate_rst (len : BitVec 30) (s : State) : (latchUpdate len s).rst = s.rst := rfl
@[simp] theorem latchUpdate_cmds (len : BitVec 30) (s : State) : (latchUpdate len s).cmds = s.cmds := rfl
@[simp] theorem latchUpdate_beats (len : BitVec 30) (s : State) : (latchUpdate len s).beats = s.beats := rfl
@[simp] theorem latchUpdate_rspReady (len : BitVec 30) (s : State) : (latchUpdate len s).rspReady = s.rspReady := rfl
@[simp] theorem latchUpdate_responses (len : BitVec 30) (s : State) : (latchUpdate len s).responses = s.responses := rfl
@[simp] theorem latchUpdate_heldCmd (len : BitVec 30) (s : State) : (latchUpdate len s).heldCmd = s.heldCmd := rfl
@[simp] theorem latchUpdate_heldBeat (len : BitVec 30) (s : State) : (latchUpdate len s).heldBeat = s.heldBeat := rfl

/-! ### respond -/

@[simp] theorem respond_h (status : Status) (s : State) : (respond status s).h = s.h := rfl
@[simp] theorem respond_buf (status : Status) (s : State) : (respond status s).buf = s.buf := rfl
@[simp] theorem respond_fill (status : Status) (s : State) : (respond status s).fill = s.fill := rfl
@[simp] theorem respond_count (status : Status) (s : State) : (respond status s).count = s.count := rfl
@[simp] theorem respond_fin (status : Status) (s : State) : (respond status s).fin = s.fin := rfl
@[simp] theorem respond_d (status : Status) (s : State) : (respond status s).d = s.d := rfl
@[simp] theorem respond_q (status : Status) (s : State) : (respond status s).q = s.q := rfl
@[simp] theorem respond_t (status : Status) (s : State) : (respond status s).t = s.t := rfl
@[simp] theorem respond_phase (status : Status) (s : State) : (respond status s).phase = .resp := rfl
@[simp] theorem respond_opl (status : Status) (s : State) : (respond status s).opl = s.opl := rfl
@[simp] theorem respond_rem (status : Status) (s : State) : (respond status s).rem = s.rem := rfl
@[simp] theorem respond_drop (status : Status) (s : State) : (respond status s).drop = s.drop := rfl
@[simp] theorem respond_pstat (status : Status) (s : State) : (respond status s).pstat = status := rfl
@[simp] theorem respond_ret (status : Status) (s : State) : (respond status s).ret = s.ret := rfl
@[simp] theorem respond_padStep (status : Status) (s : State) : (respond status s).padStep = s.padStep := rfl
@[simp] theorem respond_compStep (status : Status) (s : State) : (respond status s).compStep = s.compStep := rfl
@[simp] theorem respond_draws (status : Status) (s : State) : (respond status s).draws = s.draws := rfl
@[simp] theorem respond_started (status : Status) (s : State) : (respond status s).started = s.started := rfl
@[simp] theorem respond_rst (status : Status) (s : State) : (respond status s).rst = s.rst := rfl
@[simp] theorem respond_cmds (status : Status) (s : State) : (respond status s).cmds = s.cmds := rfl
@[simp] theorem respond_beats (status : Status) (s : State) : (respond status s).beats = s.beats := rfl
@[simp] theorem respond_rspReady (status : Status) (s : State) : (respond status s).rspReady = s.rspReady := rfl
@[simp] theorem respond_responses (status : Status) (s : State) : (respond status s).responses = s.responses := rfl
@[simp] theorem respond_heldCmd (status : Status) (s : State) : (respond status s).heldCmd = s.heldCmd := rfl
@[simp] theorem respond_heldBeat (status : Status) (s : State) : (respond status s).heldBeat = s.heldBeat := rfl

/-! ### takeResponse -/

@[simp] theorem takeResponse_h (s : State) : (takeResponse s).h = s.h := rfl
@[simp] theorem takeResponse_buf (s : State) : (takeResponse s).buf = s.buf := rfl
@[simp] theorem takeResponse_fill (s : State) : (takeResponse s).fill = s.fill := rfl
@[simp] theorem takeResponse_count (s : State) : (takeResponse s).count = s.count := rfl
@[simp] theorem takeResponse_fin (s : State) : (takeResponse s).fin = s.fin := rfl
@[simp] theorem takeResponse_d (s : State) : (takeResponse s).d = s.d := rfl
@[simp] theorem takeResponse_q (s : State) : (takeResponse s).q = s.q := rfl
@[simp] theorem takeResponse_t (s : State) : (takeResponse s).t = s.t := rfl
@[simp] theorem takeResponse_phase (s : State) : (takeResponse s).phase = .idle := rfl
@[simp] theorem takeResponse_opl (s : State) : (takeResponse s).opl = s.opl := rfl
@[simp] theorem takeResponse_rem (s : State) : (takeResponse s).rem = s.rem := rfl
@[simp] theorem takeResponse_drop (s : State) : (takeResponse s).drop = s.drop := rfl
@[simp] theorem takeResponse_pstat (s : State) : (takeResponse s).pstat = s.pstat := rfl
@[simp] theorem takeResponse_ret (s : State) : (takeResponse s).ret = s.ret := rfl
@[simp] theorem takeResponse_padStep (s : State) : (takeResponse s).padStep = s.padStep := rfl
@[simp] theorem takeResponse_compStep (s : State) : (takeResponse s).compStep = s.compStep := rfl
@[simp] theorem takeResponse_draws (s : State) : (takeResponse s).draws = s.draws := rfl
@[simp] theorem takeResponse_started (s : State) : (takeResponse s).started = s.started := rfl
@[simp] theorem takeResponse_rst (s : State) : (takeResponse s).rst = s.rst := rfl
@[simp] theorem takeResponse_cmds (s : State) : (takeResponse s).cmds = s.cmds := rfl
@[simp] theorem takeResponse_beats (s : State) : (takeResponse s).beats = s.beats := rfl
@[simp] theorem takeResponse_rspReady (s : State) : (takeResponse s).rspReady = s.rspReady := rfl
@[simp] theorem takeResponse_responses (s : State) :
    (takeResponse s).responses = s.responses ++ [s.pendingResponse] := rfl
@[simp] theorem takeResponse_heldCmd (s : State) : (takeResponse s).heldCmd = s.heldCmd := rfl
@[simp] theorem takeResponse_heldBeat (s : State) : (takeResponse s).heldBeat = s.heldBeat := rfl

/-! ### endCompression -/

@[simp] theorem endCompression_h (h : Words5) (s : State) : (endCompression h s).h = h := rfl
@[simp] theorem endCompression_buf (h : Words5) (s : State) : (endCompression h s).buf = s.buf := rfl
@[simp] theorem endCompression_fill (h : Words5) (s : State) : (endCompression h s).fill = 0 := rfl
@[simp] theorem endCompression_count (h : Words5) (s : State) : (endCompression h s).count = s.count := rfl
@[simp] theorem endCompression_fin (h : Words5) (s : State) : (endCompression h s).fin = s.fin := rfl
@[simp] theorem endCompression_d (h : Words5) (s : State) : (endCompression h s).d = Config.hiddenD s.draws := rfl
@[simp] theorem endCompression_q (h : Words5) (s : State) : (endCompression h s).q = Config.hiddenQ s.draws := rfl
@[simp] theorem endCompression_t (h : Words5) (s : State) : (endCompression h s).t = Config.hiddenT s.draws := rfl
@[simp] theorem endCompression_phase (h : Words5) (s : State) : (endCompression h s).phase = s.phase := rfl
@[simp] theorem endCompression_opl (h : Words5) (s : State) : (endCompression h s).opl = s.opl := rfl
@[simp] theorem endCompression_rem (h : Words5) (s : State) : (endCompression h s).rem = s.rem := rfl
@[simp] theorem endCompression_drop (h : Words5) (s : State) : (endCompression h s).drop = s.drop := rfl
@[simp] theorem endCompression_pstat (h : Words5) (s : State) : (endCompression h s).pstat = s.pstat := rfl
@[simp] theorem endCompression_ret (h : Words5) (s : State) : (endCompression h s).ret = s.ret := rfl
@[simp] theorem endCompression_padStep (h : Words5) (s : State) : (endCompression h s).padStep = s.padStep := rfl
@[simp] theorem endCompression_compStep (h : Words5) (s : State) : (endCompression h s).compStep = .load := rfl
@[simp] theorem endCompression_draws (h : Words5) (s : State) : (endCompression h s).draws = s.draws + 1 := rfl
@[simp] theorem endCompression_started (h : Words5) (s : State) : (endCompression h s).started = s.started := rfl
@[simp] theorem endCompression_rst (h : Words5) (s : State) : (endCompression h s).rst = s.rst := rfl
@[simp] theorem endCompression_cmds (h : Words5) (s : State) : (endCompression h s).cmds = s.cmds := rfl
@[simp] theorem endCompression_beats (h : Words5) (s : State) : (endCompression h s).beats = s.beats := rfl
@[simp] theorem endCompression_rspReady (h : Words5) (s : State) : (endCompression h s).rspReady = s.rspReady := rfl
@[simp] theorem endCompression_responses (h : Words5) (s : State) : (endCompression h s).responses = s.responses := rfl
@[simp] theorem endCompression_heldCmd (h : Words5) (s : State) : (endCompression h s).heldCmd = s.heldCmd := rfl
@[simp] theorem endCompression_heldBeat (h : Words5) (s : State) : (endCompression h s).heldBeat = s.heldBeat := rfl

/-! ### compress -/

@[simp] theorem compress_h (ret : Ret) (s : State) : (compress ret s).h = compressWords s.h s.buf.blockWords := rfl
@[simp] theorem compress_buf (ret : Ret) (s : State) : (compress ret s).buf = s.buf := rfl
@[simp] theorem compress_fill (ret : Ret) (s : State) : (compress ret s).fill = 0 := rfl
@[simp] theorem compress_count (ret : Ret) (s : State) : (compress ret s).count = s.count := rfl
@[simp] theorem compress_fin (ret : Ret) (s : State) : (compress ret s).fin = s.fin := rfl
@[simp] theorem compress_d (ret : Ret) (s : State) : (compress ret s).d = Config.hiddenD s.draws := rfl
@[simp] theorem compress_q (ret : Ret) (s : State) : (compress ret s).q = Config.hiddenQ s.draws := rfl
@[simp] theorem compress_t (ret : Ret) (s : State) : (compress ret s).t = Config.hiddenT s.draws := rfl
@[simp] theorem compress_phase (ret : Ret) (s : State) : (compress ret s).phase = s.phase := rfl
@[simp] theorem compress_opl (ret : Ret) (s : State) : (compress ret s).opl = s.opl := rfl
@[simp] theorem compress_rem (ret : Ret) (s : State) : (compress ret s).rem = s.rem := rfl
@[simp] theorem compress_drop (ret : Ret) (s : State) : (compress ret s).drop = s.drop := rfl
@[simp] theorem compress_pstat (ret : Ret) (s : State) : (compress ret s).pstat = s.pstat := rfl
@[simp] theorem compress_ret (ret : Ret) (s : State) : (compress ret s).ret = ret := rfl
@[simp] theorem compress_padStep (ret : Ret) (s : State) : (compress ret s).padStep = s.padStep := rfl
@[simp] theorem compress_compStep (ret : Ret) (s : State) : (compress ret s).compStep = .load := rfl
@[simp] theorem compress_draws (ret : Ret) (s : State) : (compress ret s).draws = s.draws + 1 := rfl
@[simp] theorem compress_started (ret : Ret) (s : State) : (compress ret s).started = s.started := rfl
@[simp] theorem compress_rst (ret : Ret) (s : State) : (compress ret s).rst = s.rst := rfl
@[simp] theorem compress_cmds (ret : Ret) (s : State) : (compress ret s).cmds = s.cmds := rfl
@[simp] theorem compress_beats (ret : Ret) (s : State) : (compress ret s).beats = s.beats := rfl
@[simp] theorem compress_rspReady (ret : Ret) (s : State) : (compress ret s).rspReady = s.rspReady := rfl
@[simp] theorem compress_responses (ret : Ret) (s : State) : (compress ret s).responses = s.responses := rfl
@[simp] theorem compress_heldCmd (ret : Ret) (s : State) : (compress ret s).heldCmd = s.heldCmd := rfl
@[simp] theorem compress_heldBeat (ret : Ret) (s : State) : (compress ret s).heldBeat = s.heldBeat := rfl

/-! ### takeBeat -/

@[simp] theorem takeBeat_h (rest : List Byte) (s : State) : (takeBeat rest s).h = s.h := rfl
@[simp] theorem takeBeat_buf (rest : List Byte) (s : State) : (takeBeat rest s).buf = s.buf := rfl
@[simp] theorem takeBeat_fill (rest : List Byte) (s : State) : (takeBeat rest s).fill = s.fill := rfl
@[simp] theorem takeBeat_count (rest : List Byte) (s : State) : (takeBeat rest s).count = s.count := rfl
@[simp] theorem takeBeat_fin (rest : List Byte) (s : State) : (takeBeat rest s).fin = s.fin := rfl
@[simp] theorem takeBeat_d (rest : List Byte) (s : State) : (takeBeat rest s).d = s.d := rfl
@[simp] theorem takeBeat_q (rest : List Byte) (s : State) : (takeBeat rest s).q = s.q := rfl
@[simp] theorem takeBeat_t (rest : List Byte) (s : State) : (takeBeat rest s).t = s.t := rfl
@[simp] theorem takeBeat_phase (rest : List Byte) (s : State) : (takeBeat rest s).phase = s.phase := rfl
@[simp] theorem takeBeat_opl (rest : List Byte) (s : State) : (takeBeat rest s).opl = s.opl := rfl
@[simp] theorem takeBeat_rem (rest : List Byte) (s : State) : (takeBeat rest s).rem = s.rem - 1 := rfl
@[simp] theorem takeBeat_drop (rest : List Byte) (s : State) : (takeBeat rest s).drop = s.drop := rfl
@[simp] theorem takeBeat_pstat (rest : List Byte) (s : State) : (takeBeat rest s).pstat = s.pstat := rfl
@[simp] theorem takeBeat_ret (rest : List Byte) (s : State) : (takeBeat rest s).ret = s.ret := rfl
@[simp] theorem takeBeat_padStep (rest : List Byte) (s : State) : (takeBeat rest s).padStep = s.padStep := rfl
@[simp] theorem takeBeat_compStep (rest : List Byte) (s : State) : (takeBeat rest s).compStep = s.compStep := rfl
@[simp] theorem takeBeat_draws (rest : List Byte) (s : State) : (takeBeat rest s).draws = s.draws := rfl
@[simp] theorem takeBeat_started (rest : List Byte) (s : State) : (takeBeat rest s).started = s.started := rfl
@[simp] theorem takeBeat_rst (rest : List Byte) (s : State) : (takeBeat rest s).rst = s.rst := rfl
@[simp] theorem takeBeat_cmds (rest : List Byte) (s : State) : (takeBeat rest s).cmds = s.cmds := rfl
@[simp] theorem takeBeat_beats (rest : List Byte) (s : State) : (takeBeat rest s).beats = rest := rfl
@[simp] theorem takeBeat_rspReady (rest : List Byte) (s : State) : (takeBeat rest s).rspReady = s.rspReady := rfl
@[simp] theorem takeBeat_responses (rest : List Byte) (s : State) : (takeBeat rest s).responses = s.responses := rfl
@[simp] theorem takeBeat_heldCmd (rest : List Byte) (s : State) : (takeBeat rest s).heldCmd = s.heldCmd := rfl
@[simp] theorem takeBeat_heldBeat (rest : List Byte) (s : State) : (takeBeat rest s).heldBeat = s.heldBeat := rfl

/-! ### dataOrResp -/

@[simp] theorem dataOrResp_h (s : State) : (dataOrResp s).h = s.h := rfl
@[simp] theorem dataOrResp_buf (s : State) : (dataOrResp s).buf = s.buf := rfl
@[simp] theorem dataOrResp_fill (s : State) : (dataOrResp s).fill = s.fill := rfl
@[simp] theorem dataOrResp_count (s : State) : (dataOrResp s).count = s.count := rfl
@[simp] theorem dataOrResp_fin (s : State) : (dataOrResp s).fin = s.fin := rfl
@[simp] theorem dataOrResp_d (s : State) : (dataOrResp s).d = s.d := rfl
@[simp] theorem dataOrResp_q (s : State) : (dataOrResp s).q = s.q := rfl
@[simp] theorem dataOrResp_t (s : State) : (dataOrResp s).t = s.t := rfl
@[simp] theorem dataOrResp_phase (s : State) : (dataOrResp s).phase = if s.rem = 0 then .resp else .data := rfl
@[simp] theorem dataOrResp_opl (s : State) : (dataOrResp s).opl = s.opl := rfl
@[simp] theorem dataOrResp_rem (s : State) : (dataOrResp s).rem = s.rem := rfl
@[simp] theorem dataOrResp_drop (s : State) : (dataOrResp s).drop = s.drop := rfl
@[simp] theorem dataOrResp_pstat (s : State) : (dataOrResp s).pstat = s.pstat := rfl
@[simp] theorem dataOrResp_ret (s : State) : (dataOrResp s).ret = s.ret := rfl
@[simp] theorem dataOrResp_padStep (s : State) : (dataOrResp s).padStep = s.padStep := rfl
@[simp] theorem dataOrResp_compStep (s : State) : (dataOrResp s).compStep = s.compStep := rfl
@[simp] theorem dataOrResp_draws (s : State) : (dataOrResp s).draws = s.draws := rfl
@[simp] theorem dataOrResp_started (s : State) : (dataOrResp s).started = s.started := rfl
@[simp] theorem dataOrResp_rst (s : State) : (dataOrResp s).rst = s.rst := rfl
@[simp] theorem dataOrResp_cmds (s : State) : (dataOrResp s).cmds = s.cmds := rfl
@[simp] theorem dataOrResp_beats (s : State) : (dataOrResp s).beats = s.beats := rfl
@[simp] theorem dataOrResp_rspReady (s : State) : (dataOrResp s).rspReady = s.rspReady := rfl
@[simp] theorem dataOrResp_responses (s : State) : (dataOrResp s).responses = s.responses := rfl
@[simp] theorem dataOrResp_heldCmd (s : State) : (dataOrResp s).heldCmd = s.heldCmd := rfl
@[simp] theorem dataOrResp_heldBeat (s : State) : (dataOrResp s).heldBeat = s.heldBeat := rfl

/-! ### padFresh -/

@[simp] theorem padFresh_h (s : State) : (padFresh s).h = s.h := rfl
@[simp] theorem padFresh_buf (s : State) : (padFresh s).buf = s.buf.zeroFill 0 56 := rfl
@[simp] theorem padFresh_fill (s : State) : (padFresh s).fill = s.fill := rfl
@[simp] theorem padFresh_count (s : State) : (padFresh s).count = s.count := rfl
@[simp] theorem padFresh_fin (s : State) : (padFresh s).fin = s.fin := rfl
@[simp] theorem padFresh_d (s : State) : (padFresh s).d = s.d := rfl
@[simp] theorem padFresh_q (s : State) : (padFresh s).q = s.q := rfl
@[simp] theorem padFresh_t (s : State) : (padFresh s).t = s.t := rfl
@[simp] theorem padFresh_phase (s : State) : (padFresh s).phase = s.phase := rfl
@[simp] theorem padFresh_opl (s : State) : (padFresh s).opl = s.opl := rfl
@[simp] theorem padFresh_rem (s : State) : (padFresh s).rem = s.rem := rfl
@[simp] theorem padFresh_drop (s : State) : (padFresh s).drop = s.drop := rfl
@[simp] theorem padFresh_pstat (s : State) : (padFresh s).pstat = s.pstat := rfl
@[simp] theorem padFresh_ret (s : State) : (padFresh s).ret = s.ret := rfl
@[simp] theorem padFresh_padStep (s : State) : (padFresh s).padStep = s.padStep := rfl
@[simp] theorem padFresh_compStep (s : State) : (padFresh s).compStep = s.compStep := rfl
@[simp] theorem padFresh_draws (s : State) : (padFresh s).draws = s.draws := rfl
@[simp] theorem padFresh_started (s : State) : (padFresh s).started = s.started := rfl
@[simp] theorem padFresh_rst (s : State) : (padFresh s).rst = s.rst := rfl
@[simp] theorem padFresh_cmds (s : State) : (padFresh s).cmds = s.cmds := rfl
@[simp] theorem padFresh_beats (s : State) : (padFresh s).beats = s.beats := rfl
@[simp] theorem padFresh_rspReady (s : State) : (padFresh s).rspReady = s.rspReady := rfl
@[simp] theorem padFresh_responses (s : State) : (padFresh s).responses = s.responses := rfl
@[simp] theorem padFresh_heldCmd (s : State) : (padFresh s).heldCmd = s.heldCmd := rfl
@[simp] theorem padFresh_heldBeat (s : State) : (padFresh s).heldBeat = s.heldBeat := rfl

/-! ### padLength -/

@[simp] theorem padLength_h (s : State) : (padLength s).h = s.h := rfl
@[simp] theorem padLength_buf (s : State) : (padLength s).buf = s.buf.writeLength s.count := rfl
@[simp] theorem padLength_fill (s : State) : (padLength s).fill = s.fill := rfl
@[simp] theorem padLength_count (s : State) : (padLength s).count = s.count := rfl
@[simp] theorem padLength_fin (s : State) : (padLength s).fin = s.fin := rfl
@[simp] theorem padLength_d (s : State) : (padLength s).d = s.d := rfl
@[simp] theorem padLength_q (s : State) : (padLength s).q = s.q := rfl
@[simp] theorem padLength_t (s : State) : (padLength s).t = s.t := rfl
@[simp] theorem padLength_phase (s : State) : (padLength s).phase = s.phase := rfl
@[simp] theorem padLength_opl (s : State) : (padLength s).opl = s.opl := rfl
@[simp] theorem padLength_rem (s : State) : (padLength s).rem = s.rem := rfl
@[simp] theorem padLength_drop (s : State) : (padLength s).drop = s.drop := rfl
@[simp] theorem padLength_pstat (s : State) : (padLength s).pstat = s.pstat := rfl
@[simp] theorem padLength_ret (s : State) : (padLength s).ret = s.ret := rfl
@[simp] theorem padLength_padStep (s : State) : (padLength s).padStep = s.padStep := rfl
@[simp] theorem padLength_compStep (s : State) : (padLength s).compStep = s.compStep := rfl
@[simp] theorem padLength_draws (s : State) : (padLength s).draws = s.draws := rfl
@[simp] theorem padLength_started (s : State) : (padLength s).started = s.started := rfl
@[simp] theorem padLength_rst (s : State) : (padLength s).rst = s.rst := rfl
@[simp] theorem padLength_cmds (s : State) : (padLength s).cmds = s.cmds := rfl
@[simp] theorem padLength_beats (s : State) : (padLength s).beats = s.beats := rfl
@[simp] theorem padLength_rspReady (s : State) : (padLength s).rspReady = s.rspReady := rfl
@[simp] theorem padLength_responses (s : State) : (padLength s).responses = s.responses := rfl
@[simp] theorem padLength_heldCmd (s : State) : (padLength s).heldCmd = s.heldCmd := rfl
@[simp] theorem padLength_heldBeat (s : State) : (padLength s).heldBeat = s.heldBeat := rfl

/-! ### markFinalized -/

@[simp] theorem markFinalized_h (s : State) : (markFinalized s).h = s.h := rfl
@[simp] theorem markFinalized_buf (s : State) : (markFinalized s).buf = s.buf := rfl
@[simp] theorem markFinalized_fill (s : State) : (markFinalized s).fill = s.fill := rfl
@[simp] theorem markFinalized_count (s : State) : (markFinalized s).count = s.count := rfl
@[simp] theorem markFinalized_fin (s : State) : (markFinalized s).fin = true := rfl
@[simp] theorem markFinalized_d (s : State) : (markFinalized s).d = s.d := rfl
@[simp] theorem markFinalized_q (s : State) : (markFinalized s).q = s.q := rfl
@[simp] theorem markFinalized_t (s : State) : (markFinalized s).t = s.t := rfl
@[simp] theorem markFinalized_phase (s : State) : (markFinalized s).phase = .resp := rfl
@[simp] theorem markFinalized_opl (s : State) : (markFinalized s).opl = s.opl := rfl
@[simp] theorem markFinalized_rem (s : State) : (markFinalized s).rem = s.rem := rfl
@[simp] theorem markFinalized_drop (s : State) : (markFinalized s).drop = s.drop := rfl
@[simp] theorem markFinalized_pstat (s : State) : (markFinalized s).pstat = .ok := rfl
@[simp] theorem markFinalized_ret (s : State) : (markFinalized s).ret = s.ret := rfl
@[simp] theorem markFinalized_padStep (s : State) : (markFinalized s).padStep = .a := rfl
@[simp] theorem markFinalized_compStep (s : State) : (markFinalized s).compStep = s.compStep := rfl
@[simp] theorem markFinalized_draws (s : State) : (markFinalized s).draws = s.draws := rfl
@[simp] theorem markFinalized_started (s : State) : (markFinalized s).started = s.started := rfl
@[simp] theorem markFinalized_rst (s : State) : (markFinalized s).rst = s.rst := rfl
@[simp] theorem markFinalized_cmds (s : State) : (markFinalized s).cmds = s.cmds := rfl
@[simp] theorem markFinalized_beats (s : State) : (markFinalized s).beats = s.beats := rfl
@[simp] theorem markFinalized_rspReady (s : State) : (markFinalized s).rspReady = s.rspReady := rfl
@[simp] theorem markFinalized_responses (s : State) : (markFinalized s).responses = s.responses := rfl
@[simp] theorem markFinalized_heldCmd (s : State) : (markFinalized s).heldCmd = s.heldCmd := rfl
@[simp] theorem markFinalized_heldBeat (s : State) : (markFinalized s).heldBeat = s.heldBeat := rfl

/-! ### enterComp -/

@[simp] theorem enterComp_h (ret : Ret) (s : State) : (enterComp ret s).h = s.h := rfl
@[simp] theorem enterComp_buf (ret : Ret) (s : State) : (enterComp ret s).buf = s.buf := rfl
@[simp] theorem enterComp_fill (ret : Ret) (s : State) : (enterComp ret s).fill = s.fill := rfl
@[simp] theorem enterComp_count (ret : Ret) (s : State) : (enterComp ret s).count = s.count := rfl
@[simp] theorem enterComp_fin (ret : Ret) (s : State) : (enterComp ret s).fin = s.fin := rfl
@[simp] theorem enterComp_d (ret : Ret) (s : State) : (enterComp ret s).d = s.d := rfl
@[simp] theorem enterComp_q (ret : Ret) (s : State) : (enterComp ret s).q = s.q := rfl
@[simp] theorem enterComp_t (ret : Ret) (s : State) : (enterComp ret s).t = s.t := rfl
@[simp] theorem enterComp_phase (ret : Ret) (s : State) : (enterComp ret s).phase = .comp := rfl
@[simp] theorem enterComp_opl (ret : Ret) (s : State) : (enterComp ret s).opl = s.opl := rfl
@[simp] theorem enterComp_rem (ret : Ret) (s : State) : (enterComp ret s).rem = s.rem := rfl
@[simp] theorem enterComp_drop (ret : Ret) (s : State) : (enterComp ret s).drop = s.drop := rfl
@[simp] theorem enterComp_pstat (ret : Ret) (s : State) : (enterComp ret s).pstat = s.pstat := rfl
@[simp] theorem enterComp_ret (ret : Ret) (s : State) : (enterComp ret s).ret = ret := rfl
@[simp] theorem enterComp_padStep (ret : Ret) (s : State) : (enterComp ret s).padStep = s.padStep := rfl
@[simp] theorem enterComp_compStep (ret : Ret) (s : State) : (enterComp ret s).compStep = .load := rfl
@[simp] theorem enterComp_draws (ret : Ret) (s : State) : (enterComp ret s).draws = s.draws := rfl
@[simp] theorem enterComp_started (ret : Ret) (s : State) : (enterComp ret s).started = s.started := rfl
@[simp] theorem enterComp_rst (ret : Ret) (s : State) : (enterComp ret s).rst = s.rst := rfl
@[simp] theorem enterComp_cmds (ret : Ret) (s : State) : (enterComp ret s).cmds = s.cmds := rfl
@[simp] theorem enterComp_beats (ret : Ret) (s : State) : (enterComp ret s).beats = s.beats := rfl
@[simp] theorem enterComp_rspReady (ret : Ret) (s : State) : (enterComp ret s).rspReady = s.rspReady := rfl
@[simp] theorem enterComp_responses (ret : Ret) (s : State) : (enterComp ret s).responses = s.responses := rfl
@[simp] theorem enterComp_heldCmd (ret : Ret) (s : State) : (enterComp ret s).heldCmd = s.heldCmd := rfl
@[simp] theorem enterComp_heldBeat (ret : Ret) (s : State) : (enterComp ret s).heldBeat = s.heldBeat := rfl

/-! ### enterPad -/

@[simp] theorem enterPad_h (step : PadStep) (s : State) : (enterPad step s).h = s.h := rfl
@[simp] theorem enterPad_buf (step : PadStep) (s : State) : (enterPad step s).buf = s.buf := rfl
@[simp] theorem enterPad_fill (step : PadStep) (s : State) : (enterPad step s).fill = s.fill := rfl
@[simp] theorem enterPad_count (step : PadStep) (s : State) : (enterPad step s).count = s.count := rfl
@[simp] theorem enterPad_fin (step : PadStep) (s : State) : (enterPad step s).fin = s.fin := rfl
@[simp] theorem enterPad_d (step : PadStep) (s : State) : (enterPad step s).d = s.d := rfl
@[simp] theorem enterPad_q (step : PadStep) (s : State) : (enterPad step s).q = s.q := rfl
@[simp] theorem enterPad_t (step : PadStep) (s : State) : (enterPad step s).t = s.t := rfl
@[simp] theorem enterPad_phase (step : PadStep) (s : State) : (enterPad step s).phase = .pad := rfl
@[simp] theorem enterPad_opl (step : PadStep) (s : State) : (enterPad step s).opl = s.opl := rfl
@[simp] theorem enterPad_rem (step : PadStep) (s : State) : (enterPad step s).rem = s.rem := rfl
@[simp] theorem enterPad_drop (step : PadStep) (s : State) : (enterPad step s).drop = s.drop := rfl
@[simp] theorem enterPad_pstat (step : PadStep) (s : State) : (enterPad step s).pstat = s.pstat := rfl
@[simp] theorem enterPad_ret (step : PadStep) (s : State) : (enterPad step s).ret = s.ret := rfl
@[simp] theorem enterPad_padStep (step : PadStep) (s : State) : (enterPad step s).padStep = step := rfl
@[simp] theorem enterPad_compStep (step : PadStep) (s : State) : (enterPad step s).compStep = s.compStep := rfl
@[simp] theorem enterPad_draws (step : PadStep) (s : State) : (enterPad step s).draws = s.draws := rfl
@[simp] theorem enterPad_started (step : PadStep) (s : State) : (enterPad step s).started = s.started := rfl
@[simp] theorem enterPad_rst (step : PadStep) (s : State) : (enterPad step s).rst = s.rst := rfl
@[simp] theorem enterPad_cmds (step : PadStep) (s : State) : (enterPad step s).cmds = s.cmds := rfl
@[simp] theorem enterPad_beats (step : PadStep) (s : State) : (enterPad step s).beats = s.beats := rfl
@[simp] theorem enterPad_rspReady (step : PadStep) (s : State) : (enterPad step s).rspReady = s.rspReady := rfl
@[simp] theorem enterPad_responses (step : PadStep) (s : State) : (enterPad step s).responses = s.responses := rfl
@[simp] theorem enterPad_heldCmd (step : PadStep) (s : State) : (enterPad step s).heldCmd = s.heldCmd := rfl
@[simp] theorem enterPad_heldBeat (step : PadStep) (s : State) : (enterPad step s).heldBeat = s.heldBeat := rfl

/-! ### resetEngine -/

@[simp] theorem resetEngine_h (s : State) : (resetEngine s).h = State.reset.h := rfl
@[simp] theorem resetEngine_buf (s : State) : (resetEngine s).buf = State.reset.buf := rfl
@[simp] theorem resetEngine_fill (s : State) : (resetEngine s).fill = State.reset.fill := rfl
@[simp] theorem resetEngine_count (s : State) : (resetEngine s).count = State.reset.count := rfl
@[simp] theorem resetEngine_fin (s : State) : (resetEngine s).fin = State.reset.fin := rfl
@[simp] theorem resetEngine_d (s : State) : (resetEngine s).d = State.reset.d := rfl
@[simp] theorem resetEngine_q (s : State) : (resetEngine s).q = State.reset.q := rfl
@[simp] theorem resetEngine_t (s : State) : (resetEngine s).t = State.reset.t := rfl
@[simp] theorem resetEngine_phase (s : State) : (resetEngine s).phase = State.reset.phase := rfl
@[simp] theorem resetEngine_opl (s : State) : (resetEngine s).opl = State.reset.opl := rfl
@[simp] theorem resetEngine_rem (s : State) : (resetEngine s).rem = State.reset.rem := rfl
@[simp] theorem resetEngine_drop (s : State) : (resetEngine s).drop = State.reset.drop := rfl
@[simp] theorem resetEngine_pstat (s : State) : (resetEngine s).pstat = State.reset.pstat := rfl
@[simp] theorem resetEngine_ret (s : State) : (resetEngine s).ret = State.reset.ret := rfl
@[simp] theorem resetEngine_padStep (s : State) : (resetEngine s).padStep = State.reset.padStep := rfl
@[simp] theorem resetEngine_compStep (s : State) : (resetEngine s).compStep = State.reset.compStep := rfl
@[simp] theorem resetEngine_draws (s : State) : (resetEngine s).draws = s.draws := rfl
@[simp] theorem resetEngine_started (s : State) : (resetEngine s).started = State.reset.started := rfl
@[simp] theorem resetEngine_rst (s : State) : (resetEngine s).rst = s.rst := rfl
@[simp] theorem resetEngine_cmds (s : State) : (resetEngine s).cmds = s.cmds := rfl
@[simp] theorem resetEngine_beats (s : State) : (resetEngine s).beats = s.beats := rfl
@[simp] theorem resetEngine_rspReady (s : State) : (resetEngine s).rspReady = s.rspReady := rfl
@[simp] theorem resetEngine_responses (s : State) : (resetEngine s).responses = s.responses := rfl
@[simp] theorem resetEngine_heldCmd (s : State) : (resetEngine s).heldCmd = State.reset.heldCmd := rfl
@[simp] theorem resetEngine_heldBeat (s : State) : (resetEngine s).heldBeat = State.reset.heldBeat := rfl

/-! ### offerCommand -/

@[simp] theorem offerCommand_h (word : BitVec 32) (s : State) : (offerCommand word s).h = s.h := rfl
@[simp] theorem offerCommand_buf (word : BitVec 32) (s : State) : (offerCommand word s).buf = s.buf := rfl
@[simp] theorem offerCommand_fill (word : BitVec 32) (s : State) : (offerCommand word s).fill = s.fill := rfl
@[simp] theorem offerCommand_count (word : BitVec 32) (s : State) : (offerCommand word s).count = s.count := rfl
@[simp] theorem offerCommand_fin (word : BitVec 32) (s : State) : (offerCommand word s).fin = s.fin := rfl
@[simp] theorem offerCommand_d (word : BitVec 32) (s : State) : (offerCommand word s).d = s.d := rfl
@[simp] theorem offerCommand_q (word : BitVec 32) (s : State) : (offerCommand word s).q = s.q := rfl
@[simp] theorem offerCommand_t (word : BitVec 32) (s : State) : (offerCommand word s).t = s.t := rfl
@[simp] theorem offerCommand_phase (word : BitVec 32) (s : State) : (offerCommand word s).phase = .idle := rfl
@[simp] theorem offerCommand_opl (word : BitVec 32) (s : State) : (offerCommand word s).opl = s.opl := rfl
@[simp] theorem offerCommand_rem (word : BitVec 32) (s : State) : (offerCommand word s).rem = s.rem := rfl
@[simp] theorem offerCommand_drop (word : BitVec 32) (s : State) : (offerCommand word s).drop = s.drop := rfl
@[simp] theorem offerCommand_pstat (word : BitVec 32) (s : State) : (offerCommand word s).pstat = s.pstat := rfl
@[simp] theorem offerCommand_ret (word : BitVec 32) (s : State) : (offerCommand word s).ret = s.ret := rfl
@[simp] theorem offerCommand_padStep (word : BitVec 32) (s : State) : (offerCommand word s).padStep = s.padStep := rfl
@[simp] theorem offerCommand_compStep (word : BitVec 32) (s : State) :
    (offerCommand word s).compStep = s.compStep := rfl
@[simp] theorem offerCommand_draws (word : BitVec 32) (s : State) : (offerCommand word s).draws = s.draws := rfl
@[simp] theorem offerCommand_started (word : BitVec 32) (s : State) : (offerCommand word s).started = true := rfl
@[simp] theorem offerCommand_rst (word : BitVec 32) (s : State) : (offerCommand word s).rst = false := rfl
@[simp] theorem offerCommand_cmds (word : BitVec 32) (s : State) : (offerCommand word s).cmds = word :: s.cmds := rfl
@[simp] theorem offerCommand_beats (word : BitVec 32) (s : State) : (offerCommand word s).beats = s.beats := rfl
@[simp] theorem offerCommand_rspReady (word : BitVec 32) (s : State) :
    (offerCommand word s).rspReady = s.rspReady := rfl
@[simp] theorem offerCommand_responses (word : BitVec 32) (s : State) :
    (offerCommand word s).responses = s.responses := rfl
@[simp] theorem offerCommand_heldCmd (word : BitVec 32) (s : State) : (offerCommand word s).heldCmd = none := rfl
@[simp] theorem offerCommand_heldBeat (word : BitVec 32) (s : State) : (offerCommand word s).heldBeat = none := rfl

/-! ### noteOffers -/

@[simp] theorem noteOffers_h (s t : State) : (noteOffers s t).h = t.h := rfl
@[simp] theorem noteOffers_buf (s t : State) : (noteOffers s t).buf = t.buf := rfl
@[simp] theorem noteOffers_fill (s t : State) : (noteOffers s t).fill = t.fill := rfl
@[simp] theorem noteOffers_count (s t : State) : (noteOffers s t).count = t.count := rfl
@[simp] theorem noteOffers_fin (s t : State) : (noteOffers s t).fin = t.fin := rfl
@[simp] theorem noteOffers_d (s t : State) : (noteOffers s t).d = t.d := rfl
@[simp] theorem noteOffers_q (s t : State) : (noteOffers s t).q = t.q := rfl
@[simp] theorem noteOffers_t (s t : State) : (noteOffers s t).t = t.t := rfl
@[simp] theorem noteOffers_phase (s t : State) : (noteOffers s t).phase = t.phase := rfl
@[simp] theorem noteOffers_opl (s t : State) : (noteOffers s t).opl = t.opl := rfl
@[simp] theorem noteOffers_rem (s t : State) : (noteOffers s t).rem = t.rem := rfl
@[simp] theorem noteOffers_drop (s t : State) : (noteOffers s t).drop = t.drop := rfl
@[simp] theorem noteOffers_pstat (s t : State) : (noteOffers s t).pstat = t.pstat := rfl
@[simp] theorem noteOffers_ret (s t : State) : (noteOffers s t).ret = t.ret := rfl
@[simp] theorem noteOffers_padStep (s t : State) : (noteOffers s t).padStep = t.padStep := rfl
@[simp] theorem noteOffers_compStep (s t : State) : (noteOffers s t).compStep = t.compStep := rfl
@[simp] theorem noteOffers_draws (s t : State) : (noteOffers s t).draws = t.draws := rfl
@[simp] theorem noteOffers_started (s t : State) : (noteOffers s t).started = t.started := rfl
@[simp] theorem noteOffers_rst (s t : State) : (noteOffers s t).rst = t.rst := rfl
@[simp] theorem noteOffers_cmds (s t : State) : (noteOffers s t).cmds = t.cmds := rfl
@[simp] theorem noteOffers_beats (s t : State) : (noteOffers s t).beats = t.beats := rfl
@[simp] theorem noteOffers_rspReady (s t : State) : (noteOffers s t).rspReady = t.rspReady := rfl
@[simp] theorem noteOffers_responses (s t : State) : (noteOffers s t).responses = t.responses := rfl
@[simp] theorem noteOffers_heldCmd (s t : State) :
    (noteOffers s t).heldCmd = heldAfter s.cmds t.cmds (outlastsAcceptance s t) := rfl
@[simp] theorem noteOffers_heldBeat (s t : State) :
    (noteOffers s t).heldBeat = heldAfter s.beats t.beats (compressesAfterBeats s t) := rfl

@[simp] theorem raiseError_eq_respond (error : Status) (s : State) : raiseError error s = respond error s := rfl

end Sys2Proof.Machine
end

