-- ==== Sys2Proof/Laws/Ops.lean ====
section
/-! SUPPORT. What each shared operation can do, said once: its equations, when it answers a state and which one, and the
fields it never writes. Later proofs cite these and do not unfold the operations. -/

namespace Sys2Proof.Machine

/-! ### FILL -/

theorem fill_succ {fill : BitVec 7} (h : fill.toNat < 64) : (fill + 1).toNat = fill.toNat + 1 := by
  rw [BitVec.toNat_add]
  show (fill.toNat + 1) % 128 = fill.toNat + 1
  omega

theorem blockFull_iff (fill : BitVec 7) : blockFull fill = true ↔ fill.toNat = 64 :=
  decide_eq_true_iff

theorem needsSecondBlock_iff (fill : BitVec 7) : needsSecondBlock fill = true ↔ 56 < fill.toNat :=
  decide_eq_true_iff

/-! ### ABSORB -/

theorem absorbByte_eq_ok {b : Byte} {s t : State} :
    absorbByte b s = .ok t ↔
      s.fill.toNat < 64 ∧
        t = { s with buf := s.buf.write s.fill.toNat b, fill := s.fill + 1, count := s.count + 8 } := by
  unfold absorbByte Memory.store Config.blockBytes
  by_cases h : s.fill.toNat < 64
  · simp [h, eq_comm]
  · simp [h]

theorem absorbByte_eq_error {b : Byte} {s : State} {f : Fault} :
    absorbByte b s = .error f ↔ 64 ≤ s.fill.toNat ∧ f = .bufferAddress s.fill.toNat := by
  unfold absorbByte Memory.store Config.blockBytes
  by_cases h : s.fill.toNat < 64
  · simp [h]
  · simp [h, eq_comm, Nat.le_of_not_lt h]

theorem absorb_eq_ok {b : Byte} {s t : State} :
    absorb b s = .ok t ↔
      s.fill.toNat < 64 ∧
        t = compressIfFull
          { s with buf := s.buf.write s.fill.toNat b, fill := s.fill + 1, count := s.count + 8 } := by
  unfold absorb
  cases h : absorbByte b s with
  | ok u =>
    obtain ⟨hlt, rfl⟩ := absorbByte_eq_ok.mp h
    simp [hlt, eq_comm]
  | error f =>
    obtain ⟨hge, rfl⟩ := absorbByte_eq_error.mp h
    simp [Nat.not_lt.mpr hge]

theorem compressIfFull_of_full {s : State} (h : s.fill.toNat = 64) : compressIfFull s = compress .data s := by
  simp [compressIfFull, (blockFull_iff s.fill).mpr h]

theorem compressIfFull_of_not_full {s : State} (h : s.fill.toNat ≠ 64) : compressIfFull s = s := by
  have hb : blockFull s.fill ≠ true := fun hb => h ((blockFull_iff s.fill).mp hb)
  simp [compressIfFull, hb]

/-! ### Collecting beats -/

@[simp] theorem collectBeats_nil (s : State) : collectBeats [] s = .ok s := rfl

theorem collectBeats_none_owed {bs : List Byte} {s : State} (h : s.rem = 0) : collectBeats bs s = .ok s := by
  cases bs with
  | nil => rfl
  | cons b rest => simp [collectBeats, h]

theorem collectBeats_dropped {b : Byte} {rest : List Byte} {s : State} (h : s.rem ≠ 0) (hd : s.drop = true) :
    collectBeats (b :: rest) s = collectBeats rest (takeBeat rest s) := by
  rw [collectBeats, if_neg h, if_pos hd]

theorem collectBeats_absorbed {b : Byte} {rest : List Byte} {s t : State} (h : s.rem ≠ 0) (hd : s.drop = false)
    (ha : absorb b (takeBeat rest s) = .ok t) : collectBeats (b :: rest) s = collectBeats rest t := by
  rw [collectBeats, if_neg h, hd, if_neg (by decide), ha]

/-- The fields that no block step of ABSORB writes. -/
theorem compressIfFull_frame (s : State) :
    (compressIfFull s).buf = s.buf ∧ (compressIfFull s).count = s.count ∧ (compressIfFull s).fin = s.fin ∧
    (compressIfFull s).phase = s.phase ∧ (compressIfFull s).opl = s.opl ∧ (compressIfFull s).rem = s.rem ∧
    (compressIfFull s).drop = s.drop ∧ (compressIfFull s).pstat = s.pstat ∧
    (compressIfFull s).padStep = s.padStep ∧ (compressIfFull s).started = s.started ∧
    (compressIfFull s).rst = s.rst ∧ (compressIfFull s).cmds = s.cmds ∧ (compressIfFull s).beats = s.beats ∧
    (compressIfFull s).rspReady = s.rspReady ∧ (compressIfFull s).responses = s.responses ∧
    (compressIfFull s).heldCmd = s.heldCmd ∧ (compressIfFull s).heldBeat = s.heldBeat := by
  unfold compressIfFull
  split <;> simp

/-- What collecting beats never writes: FIN, the command's registers but REM, the padding step, and everything outside the
engine but the beats taken. -/
theorem collectBeats_frame : ∀ {bs : List Byte} {s t : State}, collectBeats bs s = .ok t →
    t.fin = s.fin ∧ t.phase = s.phase ∧ t.opl = s.opl ∧ t.drop = s.drop ∧ t.pstat = s.pstat ∧
    t.padStep = s.padStep ∧ t.started = s.started ∧ t.rst = s.rst ∧ t.cmds = s.cmds ∧ t.rspReady = s.rspReady ∧
    t.responses = s.responses ∧ t.heldCmd = s.heldCmd ∧ t.heldBeat = s.heldBeat
  | [], s, t, h => by
    cases h
    simp
  | b :: rest, s, t, h => by
    by_cases h0 : s.rem = 0
    · rw [collectBeats_none_owed h0] at h
      cases h
      simp
    · cases hd : s.drop with
      | true =>
        rw [collectBeats_dropped h0 hd] at h
        simpa [hd] using collectBeats_frame h
      | false =>
        cases ha : absorb b (takeBeat rest s) with
        | error f =>
          rw [collectBeats, if_neg h0, hd, if_neg (by decide), ha] at h
          cases h
        | ok u =>
          rw [collectBeats_absorbed h0 hd ha] at h
          obtain ⟨_, rfl⟩ := absorb_eq_ok.mp ha
          have hf := collectBeats_frame h
          simpa [compressIfFull_frame, hd] using hf

/-! ### PAD -/

theorem padMark_eq_ok {s t : State} :
    padMark s = .ok t ↔
      s.fill.toNat < 64 ∧
        t = { s with
              buf := (s.buf.write s.fill.toNat 0x80).zeroFill (s.fill.toNat + 1) 64, fill := s.fill + 1 } := by
  unfold padMark Memory.store Config.blockBytes
  by_cases h : s.fill.toNat < 64
  · simp [h, eq_comm]
  · simp [h]

theorem padMark_eq_error {s : State} {f : Fault} :
    padMark s = .error f ↔ 64 ≤ s.fill.toNat ∧ f = .bufferAddress s.fill.toNat := by
  unfold padMark Memory.store Config.blockBytes
  by_cases h : s.fill.toNat < 64
  · simp [h]
  · simp [h, eq_comm, Nat.le_of_not_lt h]

theorem padOverflow_of_room {s : State} (h : s.fill.toNat ≤ 56) : padOverflow s = s := by
  have hb : needsSecondBlock s.fill ≠ true := fun hb => absurd ((needsSecondBlock_iff s.fill).mp hb) (by omega)
  simp [padOverflow, hb]

theorem padOverflow_of_no_room {s : State} (h : 56 < s.fill.toNat) :
    padOverflow s = padFresh (compress .padB s) := by
  simp [padOverflow, (needsSecondBlock_iff s.fill).mpr h]

theorem padMessage_eq_ok {s t : State} :
    padMessage s = .ok t ↔
      ∃ u, padMark s = .ok u ∧ t = compress .finishDone (padLength (padOverflow u)) := by
  unfold padMessage
  cases h : padMark s with
  | ok u => simp [eq_comm]
  | error f => simp

/-! ### The channels -/

theorem nextCommand_eq_some {s s' : State} {i : Instr} :
    nextCommand s = some (i, s') ↔
      s.phase = .idle ∧ ∃ word rest, s.cmds = word :: rest ∧ i = decode word ∧ s' = { s with cmds := rest } := by
  unfold nextCommand
  split
  · rename_i word rest hp hc
    simp [hp, hc, eq_comm]
  · rename_i h
    constructor
    · intro hn
      cases hn
    · rintro ⟨hp, word, rest, hc, -⟩
      exact absurd hc (h word rest hp)

theorem nextCommand_eq_none {s : State} : nextCommand s = none ↔ s.phase ≠ .idle ∨ s.cmds = [] := by
  unfold nextCommand
  split
  · rename_i word rest hp hc
    simp [hp, hc]
  · rename_i h
    simp only [true_iff]
    by_cases hp : s.phase = .idle
    · right
      cases hc : s.cmds with
      | nil => rfl
      | cons word rest => exact absurd hc (h word rest hp)
    · exact .inl hp

theorem offerHeld_eq_true {α : Type} [DecidableEq α] {held : Option α} {offers : List α} :
    offerHeld held offers = true ↔ ∀ x, held = some x → offers.head? = some x := by
  cases held with
  | none => simp [offerHeld]
  | some x => simp [offerHeld]

theorem stepRefusal_eq_none {s : State} :
    stepRefusal s = none ↔
      (s.started = true ∨ s.rst = true) ∧ offerHeld s.heldCmd s.cmds = true ∧ offerHeld s.heldBeat s.beats = true := by
  unfold stepRefusal
  cases s.started <;> cases s.rst <;> cases offerHeld s.heldCmd s.cmds <;> cases offerHeld s.heldBeat s.beats <;> simp

/-- A step with rst = 1 is refused for a broken offer and for nothing else. -/
theorem stepRefusal_of_rst {s : State} (h : s.rst = true) :
    stepRefusal s = none ↔ offerHeld s.heldCmd s.cmds = true ∧ offerHeld s.heldBeat s.beats = true := by
  simp [stepRefusal_eq_none, h]

/-! ### The offers to hold -/

theorem heldAfter_untaken {α : Type} (offers : List α) (seen : Bool) : heldAfter offers offers seen = offers.head? := by
  simp [heldAfter]

theorem heldAfter_seen {α : Type} (before after : List α) : heldAfter before after true = after.head? := by
  simp [heldAfter]

theorem heldAfter_taken {α : Type} {before after : List α} (h : after.length < before.length) :
    heldAfter before after false = none := by
  simp [heldAfter, h]

/-- Whatever must be held stands. -/
theorem heldAfter_stands {α : Type} [DecidableEq α] (before after : List α) (seen : Bool) :
    offerHeld (heldAfter before after seen) after = true := by
  unfold heldAfter
  split
  · rfl
  · cases after <;> simp [offerHeld]

/-- A step leaves every offer that must be held standing: the host breaks its duty by changing one, not by leaving it. -/
theorem noteOffers_offers_stand (s t : State) :
    offerHeld (noteOffers s t).heldCmd (noteOffers s t).cmds = true ∧
      offerHeld (noteOffers s t).heldBeat (noteOffers s t).beats = true :=
  ⟨heldAfter_stands _ _ _, heldAfter_stands _ _ _⟩

/-! ### A step -/

theorem outcome_eq_next {r : Except Fault State} {t : State} : outcome r = .next t ↔ r = .ok t := by
  cases r <;> simp [outcome]

theorem afterStep_eq_next {s t : State} {r : Host.Outcome State Fault Refusal} :
    afterStep s r = .next t ↔ ∃ u, r = .next u ∧ t = noteOffers s u := by
  cases r <;> simp [afterStep, eq_comm]

/-- What a step that answers a state did: a reset, a command carried as far as its beats are offered, or one clock edge. -/
theorem step_cases {s t : State} (h : step s = .next t) :
    stepRefusal s = none ∧
    ((s.rst = true ∧ t = noteOffers s (resetEngine s)) ∨
    (s.rst = false ∧ ∃ i s' u, nextCommand s = some (i, s') ∧ exec i s' = .next u ∧ t = noteOffers s u) ∨
    (s.rst = false ∧ nextCommand s = none ∧ ∃ u, clockEdge s = .ok u ∧ t = noteOffers s u)) := by
  unfold step at h
  cases hf : stepRefusal s with
  | some r => simp [hf] at h
  | none =>
    refine ⟨rfl, ?_⟩
    cases hr : s.rst with
    | true =>
      simp only [hf, hr, if_pos] at h
      cases h
      exact .inl ⟨rfl, rfl⟩
    | false =>
      cases hn : nextCommand s with
      | none =>
        simp only [hf, hr, hn, Bool.false_eq_true, if_false, edgeOutcome, afterStep_eq_next, outcome_eq_next] at h
        exact .inr (.inr ⟨rfl, rfl, h⟩)
      | some p =>
        obtain ⟨i, s'⟩ := p
        simp only [hf, hr, hn, Bool.false_eq_true, if_false, afterStep_eq_next] at h
        obtain ⟨u, hu, ht⟩ := h
        exact .inr (.inl ⟨rfl, i, s', u, rfl, hu, ht⟩)

/-! ### Commands -/

/-- UPDATE answers exactly where its beats can be collected. -/
theorem execUpdate_eq_next {len : BitVec 30} {s t : State} :
    execUpdate len s = .next t ↔ ∃ u, collectBeats s.beats (latchUpdate len s) = .ok u ∧ t = dataOrResp u := by
  unfold execUpdate
  cases collectBeats s.beats (latchUpdate len s) <;> simp [eq_comm]

/-- A first FINISH answers exactly where padding can be done. -/
theorem execFinish_eq_next {s t : State} (h : s.fin = false) :
    execFinish s = .next t ↔ ∃ u, padMessage (latchOp 0b01 s) = .ok u ∧ t = markFinalized u := by
  unfold execFinish
  rw [h, if_neg (by decide)]
  cases padMessage (latchOp 0b01 s) <;> simp [eq_comm]

end Sys2Proof.Machine
end

