-- ==== Sys2Proof/Laws/PerInstr.lean ====
section
/-! SUPPORT. Facts of every command, one lemma for each constructor. Family EncodedFields: the OP and LEN fields of a
well-formed command's word are those of its row (30_encoding.md R103, R104, R113). -/

namespace Sys2Proof.Laws.EncodedFields

open Sys2Proof

/-- The fields of the word of a command. -/
def Statement (i : Instr) : Prop :=
  i.wf = true →
    match i with
    | .update len => opField (encode i) = 0b00 ∧ lenField (encode i) = len
    | .finish => opField (encode i) = 0b01 ∧ lenField (encode i) = 0
    | .get => opField (encode i) = 0b10 ∧ lenField (encode i) = 0
    | .illegal word =>
      opField (encode i) = opField word ∧ lenField (encode i) = lenField word ∧
        opField word ≠ 0b00 ∧ (opField word = 0b11 ∨ lenField word ≠ 0)

/-- Two bits are one of four values. -/
theorem opField_values (word : BitVec 32) :
    opField word = 0b00 ∨ opField word = 0b01 ∨ opField word = 0b10 ∨ opField word = 0b11 := by
  have h : (opField word).toNat < 4 := (opField word).isLt
  have h4 : (opField word).toNat = 0 ∨ (opField word).toNat = 1 ∨ (opField word).toNat = 2 ∨
      (opField word).toNat = 3 := by omega
  rcases h4 with h0 | h0 | h0 | h0
  · exact .inl (BitVec.eq_of_toNat_eq h0)
  · exact .inr (.inl (BitVec.eq_of_toNat_eq h0))
  · exact .inr (.inr (.inl (BitVec.eq_of_toNat_eq h0)))
  · exact .inr (.inr (.inr (BitVec.eq_of_toNat_eq h0)))

/-- A word is illegal by its fields (30_encoding.md R110). -/
theorem illegalWord_iff (word : BitVec 32) :
    illegalWord word = true ↔ opField word ≠ 0b00 ∧ (opField word = 0b11 ∨ lenField word ≠ 0) := by
  unfold illegalWord
  show (match (opField word).toNat with
    | 0 => false
    | 3 => true
    | _ => lenField word != 0) = true ↔ _
  rcases opField_values word with h | h | h | h <;> rw [h] <;> simp

theorem update (len : BitVec 30) : Statement (.update len) := fun _ => ⟨opField_packWord _ _, lenField_packWord _ _⟩

theorem finish : Statement .finish := fun _ => ⟨opField_packWord _ _, lenField_packWord _ _⟩

theorem get : Statement .get := fun _ => ⟨opField_packWord _ _, lenField_packWord _ _⟩

theorem illegal (word : BitVec 32) : Statement (.illegal word) := by
  intro h
  exact ⟨rfl, rfl, (illegalWord_iff word).mp h⟩

end Sys2Proof.Laws.EncodedFields
end

