-- ==== Sys2Proof/Tests/Slice0.lean ====
section
/-! SUPPORT. Tests against the spec's own vectors (95_test_vectors.md; each names its vector), the well-formedness smoke
test, and a witness for the hypotheses of every statement of Certificates/Slice0/Obligations.lean. -/

namespace Sys2Proof.Tests

open Sys2Proof Sys2Proof.Machine

/-! ### Well-formedness -/

theorem test_wf_refuses_update_word : (Instr.illegal 0x00000005).wf = false := by decide
theorem test_wf_refuses_finish_word : (Instr.illegal 0x40000000).wf = false := by decide
theorem test_wf_refuses_get_word : (Instr.illegal 0x80000000).wf = false := by decide
theorem test_wf_accepts_reserved : (Instr.illegal 0xC0000000).wf = true := by decide

/-! ### Decoding: words written out bit by bit from 30_encoding.md R104 and R113 -/

/-- OP = 00, LEN = 3; V-DEC-2. -/
theorem test_decode_update : decode 0b00000000000000000000000000000011 = .update 3 := by decide
/-- OP = 00, LEN all ones; V-DEC-3. -/
theorem test_decode_update_longest : decode 0b00111111111111111111111111111111 = .update 0x3FFFFFFF := by decide
/-- OP = 01, LEN = 0; V-DEC-4. -/
theorem test_decode_finish : decode 0b01000000000000000000000000000000 = .finish := by decide
/-- OP = 10, LEN = 0; V-DEC-7. -/
theorem test_decode_get : decode 0b10000000000000000000000000000000 = .get := by decide
/-- OP = 01 with LEN = 1, OP = 10 with LEN = 5, OP = 11; V-DEC-5, V-DEC-8, V-DEC-9. -/
theorem test_decode_illegal :
    decode 0b01000000000000000000000000000001 = .illegal 0x40000001 ∧
    decode 0b10000000000000000000000000000101 = .illegal 0x80000005 ∧
    decode 0b11000000000000000000000000000000 = .illegal 0xC0000000 := by decide
/-- cmd_word[31:24] first (30_encoding.md R104). -/
theorem test_decode_bytes : decodeBytes [0x40, 0x00, 0x00, 0x00, 0x61] = .ok (.finish, [0x61]) := by decide
theorem test_decode_bytes_truncated : decodeBytes [0x40, 0x00, 0x00] = .error .truncated := by decide
theorem test_encode : encode (.update 3) = 0x00000003 ∧ encode .finish = 0x40000000 ∧ encode .get = 0x80000000 := by
  decide

/-! ### Word primitives and round functions -/

/-- V-ROT-1. -/
theorem test_rotl : rotl 0x80000000 1 = 0x00000001 ∧ rotl 0x12345678 5 = 0x468acf02 ∧
    rotl 0x12345678 30 = 0x048d159e ∧ rotl 0xefcdab89 30 = 0x7bf36ae2 := by decide
/-- V-FN-1, last row. -/
theorem test_round_functions :
    ch 0xaaaaaaaa 0x55555555 0xffff0000 = 0x55550000 ∧ parity 0xaaaaaaaa 0x55555555 0xffff0000 = 0x0000ffff ∧
    maj 0xaaaaaaaa 0x55555555 0xffff0000 = 0xffff0000 := by decide
/-- V-FN-2. -/
theorem test_round_groups : [0, 19, 20, 39, 40, 59, 60, 79].map roundGroup = [0, 0, 1, 1, 2, 2, 3, 3] := by decide

/-! ### Schedule, rounds, block compression -/

/-- The sixteen words of the padded "abc" block (V-PAD-3). -/
def abcBlock : List Word := 0x61626380 :: List.replicate 14 0 ++ [0x00000018]

/-- V-SCH-1: W[16], W[19], W[37], W[79]. -/
theorem test_schedule : [16, 19, 37, 79].map (fun t => (schedule abcBlock).getD t 0) =
    [0xc2c4c700, 0x85898e01, 0x626380a1, 0x822e0879] := by decide +kernel
/-- V-RND-1, t = 0. -/
theorem test_round : round 0 0x61626380 iv = ⟨0x0116fc33, 0x67452301, 0x7bf36ae2, 0x98badcfe, 0x10325476⟩ := by decide
/-- V-CMP-1. -/
theorem test_compress_abc :
    compressWords iv abcBlock = ⟨0xa9993e36, 0x4706816a, 0xba3e2571, 0x7850c26c, 0x9cd0d89d⟩ := by decide +kernel
/-- V-CMP-8: H = 0 and a block of zeros. -/
theorem test_compress_zero : compressBytes ⟨0, 0, 0, 0, 0⟩ (List.replicate 64 0) =
    ⟨0x9e1547ed, 0x57ec91c2, 0x30fa8bc8, 0xc7785a54, 0xa7efa5e3⟩ := by decide +kernel

/-! ### Memory and byte order -/

/-- V-MEM-1. -/
theorem test_block_word : Memory.readWord (Memory.writeBytes [] 0 [0x61, 0x62, 0x63, 0x80]) 0 = 0x61626380 := by decide
/-- V-MEM-2. -/
theorem test_length_field : Memory.readBytes (Memory.writeLength [] 0x0123456789abcde8) 56 8 =
    [0x01, 0x23, 0x45, 0x67, 0x89, 0xab, 0xcd, 0xe8] := by decide +kernel
/-- Writing what an unlisted address reads as removes the entry. -/
theorem test_write_canonical : Memory.write (Memory.write [] 5 0x61) 5 0x00 = [] := by decide
/-- V-SRC-9: bytes 0, 3, 4 and 19 of the "abc" digest. -/
theorem test_digest_bytes :
    [0, 3, 4, 19].map (digestByte (digestOf ⟨0xa9993e36, 0x4706816a, 0xba3e2571, 0x7850c26c, 0x9cd0d89d⟩)) =
      [0xa9, 0x36, 0x47, 0x9d] := by decide

/-! ### One step -/

/-- The engine with beats and a command offered. -/
def offering (s : State) (beats : List Byte) (word : BitVec 32) : State :=
  State.withFetchWord { s with beats := beats } 32 word.toNat

/-- The state after a step, or the reset state where there is none. -/
def stepped (s : State) : State :=
  match step s with
  | .next t => t
  | _ => State.reset

/-- "abc" absorbed from reset (V-ABS-1, end state). -/
def abcAbsorbed : State :=
  { State.reset with buf := [(0, 0x61), (1, 0x62), (2, 0x63)], fill := 3, count := 24 }

/-- "abc" finalised (V-SRC-7, start; stale BUF contents left out). -/
def abcFinished : State :=
  { State.reset with
    h := ⟨0xa9993e36, 0x4706816a, 0xba3e2571, 0x7850c26c, 0x9cd0d89d⟩, count := 24, fin := true }

/-- V-ABS-1. -/
theorem test_update_abc :
    let t := stepped (offering State.reset [0x61, 0x62, 0x63] 0x00000003)
    t.buf = [(0, 0x61), (1, 0x62), (2, 0x63)] ∧ t.fill = 3 ∧ t.count = 24 ∧ t.fin = false ∧ t.h = iv ∧
      t.pendingResponse = ⟨0, 0⟩ ∧ t.rspValid = true := by decide +kernel
/-- V-ABS-5 (with V-ABS-3's H): the byte that fills the block. -/
theorem test_update_fills_block :
    let t := stepped (offering
      { State.reset with buf := Memory.writeBytes [] 0 (List.replicate 63 0x61), fill := 63, count := 504 } [0x61] 1)
    t.h = ⟨0xda4968eb, 0x2e377c1f, 0x884e8f52, 0x83524beb, 0xe74ebdbd⟩ ∧ t.fill = 0 ∧ t.count = 512 := by
  decide +kernel
/-- V-SRC-2, V-FIN: FINISH after "abc". -/
theorem test_finish_abc :
    let t := stepped (offering abcAbsorbed [] 0x40000000)
    t.h = ⟨0xa9993e36, 0x4706816a, 0xba3e2571, 0x7850c26c, 0x9cd0d89d⟩ ∧ t.fill = 0 ∧ t.count = 24 ∧ t.fin = true ∧
      t.pendingResponse = ⟨0, 0xa9993e364706816aba3e25717850c26c9cd0d89d⟩ := by decide +kernel
/-- V-BND-4: two blocks, 0x80 at address 63. -/
theorem test_finish_two_blocks :
    let t := stepped (offering
      { State.reset with buf := Memory.writeBytes [] 0 (List.replicate 63 0x61), fill := 63, count := 504 } [] 0x40000000)
    t.pendingResponse = ⟨0, 0x03f09f5b158a7a8cdad920bddc29b81c18a551f5⟩ := by decide +kernel
/-- V-GET-2. -/
theorem test_get_not_finalized :
    let t := stepped (offering abcAbsorbed [] 0x80000000)
    t.pendingResponse = ⟨2, 0⟩ ∧ t.fin = false ∧ t.fill = 3 := by decide +kernel
/-- V-GET-3. -/
theorem test_get_finalized :
    (stepped (offering abcFinished [] 0x80000000)).pendingResponse =
      ⟨0, 0xa9993e364706816aba3e25717850c26c9cd0d89d⟩ := by decide +kernel
/-- V-DEC-10: beats offered with an illegal word are held. -/
theorem test_illegal_takes_no_beats :
    let t := stepped (offering State.reset [1, 2, 3, 4, 5] 0xC0000005)
    t.pendingResponse = ⟨3, 0⟩ ∧ t.beats = [1, 2, 3, 4, 5] := by decide +kernel
/-- V-DEC-13: not the cached digest. -/
theorem test_illegal_finalized : (stepped (offering abcFinished [] 0x40000001)).pendingResponse = ⟨3, 0⟩ := by
  decide +kernel
/-- V-RST-4: reset while six beats are owed. -/
theorem test_reset_in_data :
    let t := stepped { abcAbsorbed with phase := .data, rem := 6, rst := true }
    t.fill = 0 ∧ t.count = 0 ∧ t.rem = 0 ∧ t.phase = .idle ∧ t.responses = [] := by decide +kernel
/-- 70_reset_and_hazards.md R290 with R300's edge counts. A GET takes one edge, so no edge has seen the command behind it; a
FINISH that pads takes 86, so the command behind it stood offered and must be held. -/
theorem test_held_behind_command :
    (stepped { State.reset with cmds := [0x80000000, 0x80000000] }).heldCmd = none ∧
    (stepped { abcAbsorbed with cmds := [0x40000000, 0x80000000] }).heldCmd = some 0x80000000 := by decide +kernel
/-- R290: a block compression of 82 edges follows the beat that fills the block, and the next beat stands through it. -/
theorem test_held_behind_beat :
    (stepped { State.reset with fill := 63, count := 504, cmds := [1], beats := [1, 2] }).heldBeat = some 2 ∧
    (stepped { State.reset with cmds := [1], beats := [1, 2] }).heldBeat = none := by decide +kernel
/-- R290 exempts no reset: an offer dropped at a reset edge. -/
theorem test_reset_refuses_broken_offer :
    step { State.reset with rst := true, heldCmd := some 0x80000000 } = .refused .unstableCommandOffer := rfl
/-- 30_encoding.md R115: `HASH "abc"` is `UPDATE 0x61, 0x62, 0x63` and `FINISH`. -/
theorem test_hash_listing : hashLines "abc" = [.update [0x61, 0x62, 0x63], .finish] := by decide

/-! ### Witnesses: states and operands that meet the hypotheses of the statements -/

/-- Nothing to be held. -/
theorem offers_of_reset_fields {s : State} (h₃ : s.heldCmd = none) (h₄ : s.heldBeat = none) : s.OffersStand :=
  ⟨by simp [h₃], by simp [h₄]⟩

/-- Duties met, nothing to be held. -/
theorem duties_of_reset_fields {s : State} (h₁ : s.started = true) (h₂ : s.rst = false) (h₃ : s.heldCmd = none)
    (h₄ : s.heldBeat = none) : s.DutiesMet :=
  ⟨offers_of_reset_fields h₃ h₄, h₁, h₂⟩

/-- A response offered, with a command and a beat waiting behind it. -/
def responding : State := { abcFinished with phase := .resp, opl := 0b10, cmds := [0x80000000], beats := [0x61] }

/-- An UPDATE that owes six beats. -/
def collecting : State := { abcAbsorbed with phase := .data, rem := 6 }

/-- An UPDATE that owes six beats, under reset, with a command and a beat that the host must hold over it. -/
def resettingHeld : State :=
  { collecting with
    rst := true, cmds := [0x80000000], beats := [0x64], heldCmd := some 0x80000000, heldBeat := some 0x64 }

theorem resettingHeld_offers : resettingHeld.OffersStand := by
  constructor <;> simp [resettingHeld]

/-- An engine after its reset, and the offer that stood over it standing still. -/
theorem witness_ResetEdgeGivesAFreshEngine :
    resettingHeld.rst = true ∧ resettingHeld.OffersStand ∧
    ∃ t, step resettingHeld = .next t ∧ ({ t with rst := false, cmds := [0x80000000] } : State).OffersStand := by
  refine ⟨rfl, resettingHeld_offers, _, rfl, ?_⟩
  constructor
  · intro word h
    cases h
    rfl
  · intro byte h
    cases h
    rfl

theorem witness_ResetAbandonsTheCommand :
    ({ responding with rst := true } : State).rst = true ∧ ({ responding with rst := true } : State).phase = .resp ∧
    ({ responding with rst := true } : State).OffersStand :=
  ⟨rfl, rfl, offers_of_reset_fields rfl rfl⟩

theorem witness_NothingRunsBeforeTheFirstReset :
    ({ State.reset with started := false } : State).started = false ∧
    ({ State.reset with started := false } : State).rst = false ∧
    ({ State.reset with started := false, rst := true } : State).rst = true ∧
    ({ State.reset with started := false, rst := true } : State).OffersStand :=
  ⟨rfl, rfl, rfl, offers_of_reset_fields rfl rfl⟩

/-- One state for each clause: an offer left untransferred, a reset over standing offers, a broken command offer at rst = 0
and at rst = 1, and a broken beat offer beside a command offer that stands, at rst = 0 and at rst = 1. -/
theorem witness_OffersMustBeHeld :
    (∃ t, step { responding with rspReady := false } = .next t ∧ t.cmds = responding.cmds ∧
      t.beats = responding.beats) ∧
    (∃ t, step resettingHeld = .next t ∧ resettingHeld.rst = true) ∧
    (∃ s : State, s.rst = false ∧ s.started = true ∧ s.heldCmd = some 0x40000000 ∧ s.cmds.head? ≠ some 0x40000000) ∧
    (∃ s : State, s.rst = true ∧ s.heldCmd = some 0x40000000 ∧ s.cmds.head? ≠ some 0x40000000) ∧
    (∃ s : State, s.rst = false ∧ s.started = true ∧ s.heldCmd = some 0x40000000 ∧ s.cmds.head? = some 0x40000000 ∧
      s.heldBeat = some 0x61 ∧ s.beats.head? ≠ some 0x61) ∧
    (∃ s : State, s.rst = true ∧ s.heldCmd = some 0x40000000 ∧ s.cmds.head? = some 0x40000000 ∧
      s.heldBeat = some 0x61 ∧ s.beats.head? ≠ some 0x61) :=
  ⟨⟨_, rfl, rfl, rfl⟩, ⟨_, rfl, rfl⟩,
    ⟨{ State.reset with heldCmd := some 0x40000000, cmds := [0x80000000] }, by decide⟩,
    ⟨{ State.reset with heldCmd := some 0x40000000, rst := true }, by decide⟩,
    ⟨{ State.reset with heldCmd := some 0x40000000, cmds := [0x40000000], heldBeat := some 0x61 }, by decide⟩,
    ⟨{ State.reset with
        heldCmd := some 0x40000000, cmds := [0x40000000], heldBeat := some 0x61, beats := [0x62], rst := true }, by decide⟩⟩

theorem witness_DecodeEncodeRoundTrip :
    (Instr.update 0x3FFFFFFF).wf = true ∧ Instr.finish.wf = true ∧ Instr.get.wf = true ∧
      (Instr.illegal 0x40000001).wf = true := by decide

theorem witness_EveryWordIsOneCommand :
    (Instr.update 0x3FFFFFFF).wf = true ∧ encode (Instr.update 0x3FFFFFFF) = 0x3FFFFFFF := by decide

theorem witness_FirstMatchingRowDecides :
    ((0x3FFFFFFF : BitVec 32) &&& 0xC0000000 = 0) ∧ ((0x40000000 : BitVec 32) &&& 0xFFFFFFFF = 0x40000000) ∧
    ((0x80000000 : BitVec 32) &&& 0xFFFFFFFF = 0x80000000) ∧
    ((0x40000001 : BitVec 32) &&& 0xC0000000 ≠ 0 ∧ (0x40000001 : BitVec 32) &&& 0xFFFFFFFF ≠ 0x40000000 ∧
      (0x40000001 : BitVec 32) &&& 0xFFFFFFFF ≠ 0x80000000) := by decide

theorem witness_StepRunsTheDecodedCommand :
    ∃ s : State, s.DutiesMet ∧ s.phase = .idle ∧ s.cmds = [0x80000000] ∧
      ∃ t, exec (decode 0x80000000) { s with cmds := [] } = .next t :=
  ⟨{ State.reset with cmds := [0x80000000] }, duties_of_reset_fields rfl rfl rfl rfl, rfl, rfl, _, rfl⟩

theorem witness_StepElsewhereIsOneClockEdge :
    (collecting.DutiesMet ∧ collecting.phase ≠ .idle) ∧ (State.reset.DutiesMet ∧ State.reset.cmds = []) :=
  ⟨⟨duties_of_reset_fields rfl rfl rfl rfl, by decide⟩, duties_of_reset_fields rfl rfl rfl rfl, rfl⟩

theorem witness_ResponseIsHeldUntilTaken :
    responding.DutiesMet ∧ responding.phase = .resp ∧ responding.rspReady = true ∧
    ({ responding with rspReady := false } : State).DutiesMet :=
  ⟨duties_of_reset_fields rfl rfl rfl rfl, rfl, rfl, duties_of_reset_fields rfl rfl rfl rfl⟩

theorem witness_EngineWaitsForTheHost :
    (State.reset.DutiesMet ∧ State.reset.phase = .idle ∧ State.reset.cmds = []) ∧
    (collecting.DutiesMet ∧ collecting.phase = .data ∧ collecting.rem ≠ 0 ∧ collecting.beats = []) :=
  ⟨⟨duties_of_reset_fields rfl rfl rfl rfl, rfl, rfl⟩, duties_of_reset_fields rfl rfl rfl rfl, rfl, by decide, rfl⟩

/-- One state for each clause: RESP; DATA with a beat owed; DATA with none owed; IDLE without a command, with an UPDATE,
with a GET. -/
theorem witness_OffersWaitOutsideTheirPhase :
    (∃ t, responding.rst = false ∧ step responding = .next t) ∧
    (∃ t, step { collecting with beats := [0x64] } = .next t) ∧
    (∃ t, step { collecting with rem := 0, beats := [0x64] } = .next t) ∧
    (∃ t, step { State.reset with beats := [0x64] } = .next t) ∧
    (∃ t, step { State.reset with beats := [0x64], cmds := [0x00000001] } = .next t) ∧
    (∃ t, step { State.reset with beats := [0x64], cmds := [0x80000000] } = .next t ∧
      ∀ len, decode 0x80000000 ≠ .update len) :=
  ⟨⟨_, rfl, rfl⟩, ⟨_, rfl⟩, ⟨_, rfl⟩, ⟨_, rfl⟩, ⟨_, rfl⟩, _, rfl, fun _ h => Instr.noConfusion ((by decide : decode 0x80000000 = .get).symm.trans h)⟩

theorem witness_RoundConstantsByGroup :
    (19 < 20) ∧ (20 ≤ 20 ∧ 39 < 40) ∧ (40 ≤ 40 ∧ 59 < 60) ∧ (60 ≤ 60 ∧ 79 < 80) := by decide

theorem witness_RoundFunctionsByGroup :
    (0 < 20) ∧ (20 ≤ 39 ∧ 39 < 40) ∧ (40 ≤ 59 ∧ 59 < 60) ∧ (60 ≤ 79 ∧ 79 < 80) := by decide

theorem witness_RoundFunctionsBitByBit : (31 : Nat) < 32 := by decide

theorem witness_RotateLosesNoBit : (0 < 31 ∧ 31 < 32) ∧ (0 < 1 ∧ 1 < 32) := by decide

theorem witness_ScheduleExpandsTheBlock : (15 < 16) ∧ (16 ≤ 16 ∧ 16 < 80) ∧ (16 ≤ 79 ∧ 79 < 80) := by decide

theorem witness_CompressRunsTheRoundsAndFeedsForward :
    ∃ d : Words5, d = (List.range 80).foldl
      (fun d t => round t ((schedule abcAbsorbed.buf.blockWords).getD t 0) d) abcAbsorbed.h := ⟨_, rfl⟩

/-- A block compression about to start for an UPDATE. -/
def compressing : State := { State.reset with phase := .comp, fill := 64, count := 512 }

theorem witness_WindowedDatapathIsCompress : compressing.phase = .comp ∧ compressing.compStep = .load := ⟨rfl, rfl⟩

theorem witness_OnlyFeedForwardWritesH :
    ∃ t, clockEdge { compressing with compStep := .feed, d := iv } = .ok t ∧ t.h ≠ iv := ⟨_, rfl, by decide⟩

theorem witness_LowerAddressIsMoreSignificant : (15 < 16) ∧ (3 < 4) := by decide

theorem witness_LengthFieldIsBigEndian : Memory.wf [(0, 0x61), (63, 0x80)] = true ∧ 7 < 8 ∧ 55 < 56 ∧ 64 ≤ 64 := by decide

theorem witness_DigestIsFiveBigEndianWords : (19 : Nat) < 20 := by decide

/-- A buffer one byte short of a block. -/
def nearlyFull : State := { State.reset with buf := [(62, 0x61)], fill := 63, count := 504 }

/-- FILL below, at 62 and at 63, where the block fills. -/
theorem witness_AbsorbTakesOneByte :
    (abcAbsorbed.buf.wf = true ∧ abcAbsorbed.fill.toNat < 63) ∧
    (({ nearlyFull with fill := 62, count := 496 } : State).buf.wf = true ∧
      ({ nearlyFull with fill := 62, count := 496 } : State).fill.toNat = 62) ∧
    (nearlyFull.buf.wf = true ∧ nearlyFull.fill.toNat = 63) := by decide

theorem witness_UpdateAbsorbsItsBytes :
    ∃ (s : State) (len : BitVec 30), s.buf.wf = true ∧ s.fin = false ∧ s.fill.toNat < 64 ∧ 0 < len.toNat ∧
      len.toNat ≤ s.beats.length :=
  ⟨{ nearlyFull with beats := [1, 2] }, 2, by decide⟩

theorem witness_UpdateFrame :
    ∃ t, nearlyFull.buf.wf = true ∧ nearlyFull.fin = false ∧
      exec (.update 2) { nearlyFull with beats := [1, 2] } = .next t := ⟨_, by decide, rfl, rfl⟩

/-- The clause of UpdateFrame about a block that does not fill. -/
theorem witness_UpdateFrame_no_block :
    ∃ t, abcAbsorbed.buf.wf = true ∧ abcAbsorbed.fill.toNat + 1 < 64 ∧
      exec (.update 1) { abcAbsorbed with beats := [1] } = .next t := ⟨_, by decide, by decide, rfl⟩

theorem witness_UpdateWaitsForItsBeats :
    ∃ (s : State) (len : BitVec 30), s.buf.wf = true ∧ s.fin = false ∧ s.fill.toNat < 64 ∧
      s.beats.length < len.toNat ∧ s.beats ≠ [] :=
  ⟨{ nearlyFull with beats := [1, 2] }, 3, by decide⟩

theorem witness_RefusedUpdateDrainsItsBeats :
    ∃ (s : State) (len : BitVec 30), s.fin = true ∧ len.toNat ≤ s.beats.length ∧ 0 < len.toNat :=
  ⟨{ abcFinished with beats := [0x64, 0x65] }, 2, by decide⟩

theorem witness_RefusedUpdateWaitsForItsBeats :
    ∃ (s : State) (len : BitVec 30), s.fin = true ∧ s.beats.length < len.toNat :=
  ⟨{ abcFinished with beats := [0x64] }, 2, by decide⟩

theorem witness_EmptyUpdateChangesNothing : abcAbsorbed.fin = false ∧ abcFinished.fin = true := ⟨rfl, rfl⟩

theorem witness_ChunkingIndependence :
    ∃ (s : State) (a b n : BitVec 30), s.buf.wf = true ∧ s.fin = false ∧ s.fill.toNat < 64 ∧
      a.toNat + b.toNat = n.toNat ∧ n.toNat ≤ s.beats.length :=
  ⟨{ nearlyFull with beats := [1, 2, 3] }, 1, 2, 3, by decide⟩

/-- FILL at 3, at 55 and 56, where the clauses meet, and at 63. -/
theorem witness_FinishPadsAndFinalizes :
    (∃ s : State, s.buf.wf = true ∧ s.fin = false ∧ s.fill.toNat = 55) ∧
    (∃ s : State, s.buf.wf = true ∧ s.fin = false ∧ s.fill.toNat = 56) ∧
    (abcAbsorbed.buf.wf = true ∧ abcAbsorbed.fin = false ∧ abcAbsorbed.fill.toNat ≤ 55) ∧
    (nearlyFull.buf.wf = true ∧ nearlyFull.fin = false ∧ nearlyFull.fill.toNat < 64 ∧ 56 ≤ nearlyFull.fill.toNat) :=
  ⟨⟨{ abcAbsorbed with fill := 55, count := 440 }, by decide⟩, ⟨{ abcAbsorbed with fill := 56, count := 448 }, by decide⟩,
    by decide⟩

theorem witness_FinishIsIdempotent : abcFinished.fin = true ∧ ∃ t, exec .finish abcFinished = .next t := ⟨rfl, _, rfl⟩

theorem witness_GetAnswersIfFinalized :
    (1 : BitVec 30) ≠ 0 ∧ abcFinished.fin = true ∧ abcAbsorbed.fin = false ∧
      (∃ t, exec .get abcFinished = .next t) ∧ ∃ t, exec .get abcAbsorbed = .next t :=
  ⟨by decide, rfl, rfl, ⟨_, rfl⟩, _, rfl⟩

theorem witness_IllegalWordsAreAnswered :
    (∃ t, exec (.illegal 0xC0000000) abcAbsorbed = .next t) ∧ decode 0xC0000000 = .illegal 0xC0000000 ∧
    ({ abcAbsorbed with cmds := [0xC0000000] } : State).cmdReady = true := ⟨⟨_, rfl⟩, by decide, rfl⟩

/-- The reset state meets every clause of the invariant but the ones a proof of the statement itself is asked for: its
memory is canonical (required of the model). -/
theorem reset_memory_wf : State.reset.buf.wf = true := by decide

/-- The state after the invariant's hypotheses: a state inside an UPDATE's block compression. -/
theorem witness_EveryStepKeepsTheInvariant : compressing.Inv ∧ ∃ t, step compressing = .next t := by
  refine ⟨?_, _, rfl⟩
  constructor <;> simp [compressing, State.reset, Memory.wf, Memory.wfFrom]

theorem witness_EngineNeverStops :
    (compressing.Inv ∧ compressing.DutiesMet) ∧
    (abcFinished.Inv ∧ ({ abcFinished with rst := true } : State).Inv ∧
      ({ abcFinished with rst := true } : State).OffersStand) := by
  refine ⟨⟨witness_EveryStepKeepsTheInvariant.1, duties_of_reset_fields rfl rfl rfl rfl⟩, ?_, ?_,
    offers_of_reset_fields rfl rfl⟩ <;> constructor <;> simp [abcFinished, State.reset, Memory.wf, Memory.wfFrom]

theorem witness_FinalizedStateIsFrozen :
    abcFinished.Inv ∧ abcFinished.fin = true ∧ abcFinished.rst = false ∧ ∃ t, step abcFinished = .next t := by
  refine ⟨?_, rfl, rfl, _, rfl⟩
  constructor <;> simp [abcFinished, State.reset, Memory.wf, Memory.wfFrom]

/-- A FINISH at the last edge of its padding. -/
def padded : State := { State.reset with phase := .pad, padStep := .done, opl := 0b01 }

theorem witness_OnlyFinishSetsFin :
    (∃ t, step { abcAbsorbed with cmds := [0x40000000] } = .next t ∧ t.fin = true) ∧
    (∃ t, step padded = .next t ∧ t.fin = true ∧ padded.Inv) ∧
    (∃ t, step { abcFinished with rst := true } = .next t) ∧ (∃ t, step abcFinished = .next t) := by
  refine ⟨⟨_, rfl, rfl⟩, ⟨_, rfl, rfl, ?_⟩, ⟨_, rfl⟩, _, rfl⟩
  constructor <;> simp [padded, State.reset, Memory.wf, Memory.wfFrom]

/-- "abc" is the absorbed message of `abcAbsorbed`. -/
theorem abcAbsorbed_stream : Stream [0x61, 0x62, 0x63] abcAbsorbed := by
  constructor <;> decide

theorem witness_UpdateExtendsTheMessage :
    ∃ (s : State) (len : BitVec 30), Stream [0x61, 0x62, 0x63] s ∧ s.buf.wf = true ∧ len.toNat ≤ s.beats.length ∧
      0 < len.toNat :=
  ⟨{ abcAbsorbed with beats := [0x64] }, 1,
    ⟨abcAbsorbed_stream.fin, abcAbsorbed_stream.fill, abcAbsorbed_stream.count, abcAbsorbed_stream.buf,
      abcAbsorbed_stream.h⟩, by decide⟩

theorem witness_FinishAnswersTheStandardDigest :
    Stream [0x61, 0x62, 0x63] abcAbsorbed ∧ abcAbsorbed.buf.wf = true ∧
      ([0x61, 0x62, 0x63] : List Byte).length < 2 ^ 61 :=
  ⟨abcAbsorbed_stream, by decide, by decide⟩

theorem witness_PaddingIsTheStandardOne : (56 + 1 + 63) % 64 = 56 ∧ (55 + 1 + 0) % 64 = 56 := by decide

theorem witness_EngineHashesTheMessage :
    ∃ (s : State) (chunks : List (BitVec 30)) (total : Nat), Stream [0x61, 0x62, 0x63] s ∧ s.buf.wf = true ∧
      total = (chunks.map BitVec.toNat).sum ∧ total ≤ s.beats.length :=
  ⟨{ abcAbsorbed with beats := [0x64, 0x65, 0x66] }, [1, 0, 2], 3,
    ⟨abcAbsorbed_stream.fin, abcAbsorbed_stream.fill, abcAbsorbed_stream.count, abcAbsorbed_stream.buf,
      abcAbsorbed_stream.h⟩, by decide⟩

/-- A FINISH offered after "abc". -/
def finishOffered : State := { abcAbsorbed with cmds := [0x40000000] }

/-- The same, but for a stale byte and the hidden working state. -/
def finishOfferedStale : State := { finishOffered with buf := finishOffered.buf.write 40 0x99, d := iv }

theorem finishOffered_same : Same finishOffered finishOfferedStale where
  h := rfl
  fill := rfl
  count := rfl
  fin := rfl
  phase := rfl
  opl := rfl
  rem := rfl
  drop := rfl
  pstat := rfl
  ret := rfl
  padStep := rfl
  compStep := rfl
  started := rfl
  rst := rfl
  cmds := rfl
  beats := rfl
  rspReady := rfl
  responses := rfl
  heldCmd := rfl
  heldBeat := rfl
  buffer := by
    intro a ha
    have h3 : a < 3 := ha
    show _ = Memory.read (finishOffered.buf.write 40 0x99) a
    rw [Memory.read_write (by decide), if_neg (by omega)]
  hidden := by
    intro h
    cases h

/-- Two states that differ in a stale byte and in the hidden working state. -/
theorem witness_StaleBytesReachNoResponse :
    Same finishOffered finishOfferedStale ∧ finishOffered ≠ finishOfferedStale ∧ finishOffered.buf.wf = true ∧
      finishOfferedStale.buf.wf = true ∧ ∃ t, step finishOffered = .next t :=
  ⟨finishOffered_same, by decide, by decide, by decide, _, rfl⟩

theorem witness_SequencerRefinesFinish :
    ({ abcAbsorbed with cmds := [0x40000000] } : State).phase = .idle ∧ abcAbsorbed.fin = false ∧
    abcAbsorbed.fill.toNat ≤ 55 ∧ (56 ≤ nearlyFull.fill.toNat ∧ nearlyFull.fill.toNat < 64) := by decide

theorem witness_SequencerRefinesUpdate :
    ∃ (s : State) (len : BitVec 30), s.phase = .idle ∧ s.fin = false ∧ s.fill.toNat < 64 ∧
      s.cmds = [encode (.update len)] ∧ len.toNat ≤ s.beats.length ∧ 0 < len.toNat :=
  ⟨{ nearlyFull with cmds := [0x00000002], beats := [1, 2] }, 2, by decide⟩

theorem witness_SequencerRefinesTheOtherCommands :
    decode 0x80000000 = .get ∧ decode 0xC0000000 = .illegal 0xC0000000 ∧
    (decode 0x40000000 = .finish ∧ abcFinished.fin = true) ∧
    (decode 0x00000002 = .update 2 ∧ (2 : BitVec 30).toNat ≤ ({ abcFinished with beats := [1, 2] } : State).beats.length) := by
  decide

theorem witness_CommandsCompleteInBoundedEdges :
    ∃ s : State, s.Inv ∧ s.phase = .idle ∧ s.cmds = [0x00000002] ∧
      ∀ len, decode 0x00000002 = .update len → len.toNat ≤ s.beats.length := by
  refine ⟨{ abcFinished with cmds := [0x00000002], beats := [1, 2] }, ?_, rfl, rfl, ?_⟩
  · constructor <;> simp [abcFinished, State.reset, Memory.wf, Memory.wfFrom]
  · intro len h
    have h2 : decode 0x00000002 = .update 2 := by decide
    rw [h2] at h
    cases h
    decide

/-- A command of one edge, an UPDATE whose last beat fills a block, and one with a beat missing. -/
theorem witness_StepHoldsWhatItsEdgesLeaveStanding :
    (∃ s : State, s.DutiesMet ∧ s.phase = .idle ∧ s.fill.toNat < 64 ∧ s.cmds = [0x80000000, 0x40000000]) ∧
    (∃ s : State, s.DutiesMet ∧ s.phase = .idle ∧ s.fill.toNat = 63 ∧ s.cmds = [0x00000001, 0x40000000] ∧
      s.beats = [1, 2]) ∧
    (∃ s : State, s.DutiesMet ∧ s.phase = .idle ∧ s.fill.toNat < 64 ∧ s.cmds = [0x00000002, 0x40000000] ∧
      s.beats = [1]) :=
  ⟨⟨{ State.reset with cmds := [0x80000000, 0x40000000] }, duties_of_reset_fields rfl rfl rfl rfl, rfl, by decide, rfl⟩,
    ⟨{ nearlyFull with cmds := [0x00000001, 0x40000000], beats := [1, 2] }, duties_of_reset_fields rfl rfl rfl rfl, rfl,
      rfl, rfl, rfl⟩,
    ⟨{ State.reset with cmds := [0x00000002, 0x40000000], beats := [1] }, duties_of_reset_fields rfl rfl rfl rfl, rfl,
      by decide, rfl, rfl⟩⟩

theorem witness_LongUpdateExpands : ([0x61, 0x62, 0x63] : List Byte).length < 2 ^ 30 := by decide

end Sys2Proof.Tests
end

section
/-! Family 00_scope.md: the rotate (R9, R201), and the grain of a step (R14, R101, R150). -/

namespace Sys2Proof.Machine

/-! ### The rotate -/

/-- Where a bit of a word goes; `getLsbD_rotl` says where one comes from. -/
theorem getLsbD_rotl_add_mod (x : Word) {n i : Nat} (hn : n < 32) (hi : i < 32) :
    (rotl x n).getLsbD ((i + n) % 32) = x.getLsbD i := by
  rw [getLsbD_rotl x hn (Nat.mod_lt _ (by decide))]
  by_cases hwrap : i + n < 32
  · have hplace : (i + n) % 32 = i + n := Nat.mod_eq_of_lt hwrap
    rw [hplace, if_neg (by omega), Nat.add_sub_cancel]
  · have hlow : (i + n) % 32 < n := by omega
    have hback : 32 - n + (i + n) % 32 = i := by omega
    rw [if_pos hlow, hback]

/-- The two rotates together carry every bit once around the word. -/
theorem rotl_rotl_complement (x : Word) {n : Nat} (hpos : 0 < n) (hn : n < 32) : rotl (rotl x n) (32 - n) = x := by
  apply BitVec.eq_of_getLsbD_eq
  intro i hi
  have haround : ((i + n) % 32 + (32 - n)) % 32 = i := by omega
  calc (rotl (rotl x n) (32 - n)).getLsbD i
      = (rotl (rotl x n) (32 - n)).getLsbD (((i + n) % 32 + (32 - n)) % 32) := by rw [haround]
    _ = (rotl x n).getLsbD ((i + n) % 32) := getLsbD_rotl_add_mod _ (by omega) (Nat.mod_lt _ (by decide))
    _ = x.getLsbD i := getLsbD_rotl_add_mod x hn hi

theorem rotl_thirty (x : Word) : rotl x 30 = (x >>> 2) ||| (x <<< 30) := BitVec.or_comm _ _

/-- Settles O17: bit by bit from where a rotate takes each bit. -/
theorem rotateLosesNoBit : Obligations.RotateLosesNoBit := by
  intro x n hpos hn
  exact ⟨fun i hi => getLsbD_rotl_add_mod x hn hi, rotl_rotl_complement x hpos hn, rotl_thirty x⟩

/-! ### A step where the host meets its duties -/

/-- A host that meets its duties is never refused (70_reset_and_hazards.md R284, R290). -/
theorem State.DutiesMet.stepRefusal_eq_none {s : State} (h : s.DutiesMet) : stepRefusal s = none :=
  Machine.stepRefusal_eq_none.2
    ⟨.inl h.started, offerHeld_eq_true.2 h.cmd_held, offerHeld_eq_true.2 h.beat_held⟩

theorem step_of_nextCommand_eq_some {s s' : State} {i : Instr} (h : s.DutiesMet) (hc : nextCommand s = some (i, s')) :
    step s = afterStep s (exec i s') := by
  simp [step, h.stepRefusal_eq_none, h.rst_low, hc]

theorem step_of_nextCommand_eq_none {s : State} (h : s.DutiesMet) (hc : nextCommand s = none) :
    step s = afterStep s (outcome (clockEdge s)) := by
  simp [step, h.stepRefusal_eq_none, h.rst_low, hc, edgeOutcome]

/-- Settles O9: in IDLE the word offered is the next command. -/
theorem stepRunsTheDecodedCommand : Obligations.StepRunsTheDecodedCommand := by
  intro s word rest hduties hidle hcmds
  have hnext : nextCommand s = some (decode word, { s with cmds := rest }) :=
    nextCommand_eq_some.2 ⟨hidle, word, rest, hcmds, rfl, rfl⟩
  have hstep := step_of_nextCommand_eq_some hduties hnext
  refine ⟨hstep, fun t ht => ?_⟩
  rw [hstep, ht]
  rfl

/-- Settles O10: outside IDLE, and with no word offered, there is no next command. -/
theorem stepElsewhereIsOneClockEdge : Obligations.StepElsewhereIsOneClockEdge := fun _ hduties hnone =>
  step_of_nextCommand_eq_none hduties (nextCommand_eq_none.2 hnone)

end Sys2Proof.Machine
end

section
/-! Family 10_state.md, the invariant: what each phase asks of the state, and that every operation keeps it (10_state.md
R34, R37, R38, R45, 20_memory.md R71, 41_finalize.md R174, 42_compression.md R216). -/

namespace Sys2Proof.Machine

/-- What the invariant says of the registers that a command starts from and ends with, outside COMP and PAD. -/
structure State.Settled (s : State) : Prop where
  buf_wf : s.buf.wf = true
  fill_lt : s.fill.toNat < 64
  count_bytes : s.count.toNat % 8 = 0
  fill_count : s.fin = false → s.count.toNat / 8 % 64 = s.fill.toNat
  fill_fin : s.fin = true → s.fill = 0
  drop_fin : s.drop = true → s.fin = true

/-- A settled state in the middle of an UPDATE. -/
structure State.Updating (s : State) : Prop extends s.Settled where
  drop_eq : s.drop = s.fin
  opl_eq : s.opl = 0b00
  pstat_eq : s.pstat = updateStatus s.fin

/-- What the invariant says of the registers while a FINISH pads, in PAD and in its block compressions. -/
structure State.Padding (s : State) : Prop where
  buf_wf : s.buf.wf = true
  fill_le : s.fill.toNat ≤ 64
  count_bytes : s.count.toNat % 8 = 0
  rem_eq : s.rem = 0
  drop_eq : s.drop = false
  fin_eq : s.fin = false
  opl_eq : s.opl = 0b01

variable {s t : State}

/-! ### What the invariant gives in each phase -/

theorem State.Inv.settled (h : s.Inv) (hphase : s.phase = .idle ∨ s.phase = .data ∨ s.phase = .resp) :
    s.Settled where
  buf_wf := h.buf_wf
  fill_lt := h.fill_lt (by rcases hphase with hp | hp | hp <;> simp [hp])
  count_bytes := h.count_bytes
  fill_count hfin := h.fill_count hfin hphase
  fill_fin := h.fill_fin
  drop_fin := h.drop_fin

theorem State.Inv.updating (h : s.Inv) (hphase : s.phase = .data) : s.Updating :=
  have ⟨hdrop, hopl, hpstat⟩ := h.drop_data hphase
  { h.settled (.inr (.inl hphase)) with drop_eq := hdrop, opl_eq := hopl, pstat_eq := hpstat }

theorem State.Inv.rem_eq_zero (h : s.Inv) (hdata : s.phase ≠ .data) (hcomp : s.phase ≠ .comp) : s.rem = 0 :=
  h.rem_else hdata fun hc => hcomp hc.1

theorem State.Inv.drop_eq_false (h : s.Inv) (hfin : s.fin = false) : s.drop = false := by
  by_contra hdrop
  exact absurd (h.drop_fin (by simpa using hdrop)) (by simp [hfin])

theorem State.Inv.padding_of_pad (h : s.Inv) (hphase : s.phase = .pad) : s.Padding :=
  have ⟨hfin, hopl⟩ := h.pad_fin hphase
  { buf_wf := h.buf_wf, fill_le := h.fill_le, count_bytes := h.count_bytes
    rem_eq := h.rem_eq_zero (by simp [hphase]) (by simp [hphase])
    drop_eq := h.drop_eq_false hfin, fin_eq := hfin, opl_eq := hopl }

theorem State.Inv.padding_of_comp (h : s.Inv) (hphase : s.phase = .comp) (hret : s.ret ≠ .data) : s.Padding :=
  have hfin := h.comp_fin hphase
  { buf_wf := h.buf_wf, fill_le := h.fill_le, count_bytes := h.count_bytes
    rem_eq := h.rem_else (by simp [hphase]) fun hc => hret hc.2
    drop_eq := h.drop_eq_false hfin, fin_eq := hfin, opl_eq := (h.comp_pad hphase hret).1 }

/-! ### What gives the invariant in each phase

The clauses about the other phases, left as `?_`, hold there because PHASE is another. -/

theorem State.Settled.inv_of_idle (h : s.Settled) (hphase : s.phase = .idle) (hrem : s.rem = 0) : s.Inv := by
  refine { h with fill_le := h.fill_lt.le, fill_lt := fun _ => h.fill_lt,
                  fill_count := fun hfin _ => h.fill_count hfin, rem_else := fun _ _ => hrem,
                  rem_data := ?_, drop_data := ?_, comp_fin := ?_, comp_data := ?_, comp_pad := ?_, comp_round := ?_,
                  pad_fin := ?_, pad_a := ?_, pad_done := ?_, resp_status := ?_ } <;> simp [hphase]

theorem State.Settled.inv_of_resp (h : s.Settled) (hphase : s.phase = .resp) (hrem : s.rem = 0)
    (hstatus : (s.opl = 0b00 ∧ s.pstat = updateStatus s.fin) ∨ (s.opl = 0b01 ∧ s.pstat = .ok ∧ s.fin = true) ∨
      (s.opl = 0b10 ∧ s.pstat = getStatus s.fin) ∨ s.pstat = .illegalCommand) : s.Inv := by
  refine { h with fill_le := h.fill_lt.le, fill_lt := fun _ => h.fill_lt,
                  fill_count := fun hfin _ => h.fill_count hfin, rem_else := fun _ _ => hrem,
                  resp_status := fun _ => hstatus,
                  rem_data := ?_, drop_data := ?_, comp_fin := ?_, comp_data := ?_, comp_pad := ?_, comp_round := ?_,
                  pad_fin := ?_, pad_a := ?_, pad_done := ?_ } <;> simp [hphase]

theorem State.Updating.inv_dataOrResp (h : s.Updating) : (dataOrResp s).Inv := by
  by_cases hrem : s.rem = 0
  · exact State.Settled.inv_of_resp { h.toSettled with } (by simp [hrem]) hrem (.inl ⟨h.opl_eq, h.pstat_eq⟩)
  · have hphase : (dataOrResp s).phase = .data := if_neg hrem
    refine { h.toSettled with
      fill_le := h.fill_lt.le, fill_lt := fun _ => h.fill_lt, fill_count := fun hfin _ => h.fill_count hfin
      rem_data := fun _ => hrem, drop_data := fun _ => ⟨h.drop_eq, h.opl_eq, h.pstat_eq⟩
      rem_else := ?_, comp_fin := ?_, comp_data := ?_, comp_pad := ?_, comp_round := ?_
      pad_fin := ?_, pad_a := ?_, pad_done := ?_, resp_status := ?_ } <;> simp only [hphase] <;> simp

theorem State.Padding.inv_enterPad (h : s.Padding) {step : PadStep} (hlt : s.fill.toNat < 64)
    (ha : step = .a → s.count.toNat / 8 % 64 = s.fill.toNat) (hdone : step = .done → s.fill = 0) :
    (enterPad step s).Inv := by
  refine { buf_wf := h.buf_wf, fill_le := h.fill_le, count_bytes := h.count_bytes, fill_lt := fun _ => hlt,
           rem_else := fun _ _ => h.rem_eq, pad_fin := fun _ => ⟨h.fin_eq, h.opl_eq⟩, pad_a := fun _ => ha,
           pad_done := fun _ => hdone
           fill_count := ?_, fill_fin := ?_, rem_data := ?_, drop_fin := ?_, drop_data := ?_
           comp_fin := ?_, comp_data := ?_, comp_pad := ?_, comp_round := ?_, resp_status := ?_ } <;>
    simp [h.fin_eq, h.drop_eq]

theorem State.Padding.inv_enterComp (h : s.Padding) {ret : Ret} (hdata : ret ≠ .data) (ha : ret ≠ .padA) :
    (enterComp ret s).Inv := by
  refine { buf_wf := h.buf_wf, fill_le := h.fill_le, count_bytes := h.count_bytes, rem_else := fun _ _ => h.rem_eq,
           comp_fin := fun _ => h.fin_eq, comp_pad := fun _ _ => ⟨h.opl_eq, ha⟩
           fill_lt := ?_, fill_count := ?_, fill_fin := ?_, rem_data := ?_, drop_fin := ?_, drop_data := ?_
           comp_data := ?_, comp_round := ?_, pad_fin := ?_, pad_a := ?_, pad_done := ?_, resp_status := ?_ } <;>
    simp [h.fin_eq, h.drop_eq, hdata]

theorem State.Padding.inv_markFinalized (h : s.Padding) (hfill : s.fill = 0) : (markFinalized s).Inv :=
  State.Settled.inv_of_resp
    { buf_wf := h.buf_wf, fill_lt := by simp [hfill], count_bytes := h.count_bytes, fill_count := by simp
      fill_fin := fun _ => hfill, drop_fin := fun _ => rfl }
    rfl h.rem_eq (.inr (.inl ⟨h.opl_eq, by rfl, rfl⟩))

/-! ### Reset, and noting the offers -/

/-- Settles O39: clause by clause at the reset values. -/
theorem resetStateMeetsTheInvariant : Obligations.ResetStateMeetsTheInvariant :=
  State.Settled.inv_of_idle
    { buf_wf := rfl, fill_lt := by decide, count_bytes := rfl, fill_count := fun _ => rfl, fill_fin := fun _ => rfl
      drop_fin := fun h => h }
    rfl rfl

theorem resetEngine_inv (s : State) : (resetEngine s).Inv := { resetStateMeetsTheInvariant with }

/-- The invariant says nothing of the offers to hold. -/
theorem State.Inv.noteOffers (h : t.Inv) : (noteOffers s t).Inv := { h with }

/-! ### ABSORB and DRAIN -/

/-- COUNT and FILL move together: eight bits and one byte, both modulo the block (40_update.md R140, R151). -/
theorem count_add_eight {count : BitVec 64} (h : count.toNat % 8 = 0) :
    (count + 8).toNat % 8 = 0 ∧ (count + 8).toNat / 8 % 64 = (count.toNat / 8 % 64 + 1) % 64 := by
  have hadd : (count + 8).toNat = (count.toNat + 8) % 2 ^ 64 := BitVec.toNat_add _ _
  omega

theorem State.Updating.takeBeat (h : s.Updating) (rest : List Byte) : (takeBeat rest s).Updating := { h with }

/-- A byte absorbed leaves a settled state where it does not fill the block; where it does, the block step is due. -/
theorem State.Updating.absorbByte {b : Byte} (h : s.Updating) (hfin : s.fin = false)
    (ht : absorbByte b s = .ok t) :
    (t.fill.toNat ≠ 64 → t.Updating) ∧
    (t.fill.toNat = 64 → (compress .data t).Updating ∧ (enterComp .data t).Inv) := by
  obtain ⟨hlt, rfl⟩ := absorbByte_eq_ok.mp ht
  have hfill := fill_succ hlt
  have hwf : (s.buf.write s.fill.toNat b).wf = true := Memory.wf_write h.buf_wf hlt
  obtain ⟨hbytes, hcount⟩ := count_add_eight h.count_bytes
  rw [h.fill_count hfin] at hcount
  have hroom : (s.fill + 1).toNat ≠ 64 → (s.count + 8).toNat / 8 % 64 = (s.fill + 1).toNat := fun hne => by
    rw [hcount, ← hfill]
    exact Nat.mod_eq_of_lt (by omega)
  have hfull : (s.fill + 1).toNat = 64 → (s.count + 8).toNat / 8 % 64 = 0 := fun hf => by
    rw [hcount, ← hfill, hf]
  refine ⟨fun hne => ?_, fun hf => ⟨?_, ?_⟩⟩
  · exact { h with
      buf_wf := hwf, count_bytes := hbytes
      fill_lt := lt_of_le_of_ne (hfill.trans_le hlt) hne
      fill_count := fun _ => hroom hne
      fill_fin := fun hf => absurd hf (by simp [hfin]) }
  · exact { h with
      buf_wf := hwf, count_bytes := hbytes, fill_lt := by simp
      fill_count := fun _ => hfull hf
      fill_fin := fun _ => rfl }
  · refine { buf_wf := hwf, fill_le := hf.le, count_bytes := hbytes, drop_fin := h.drop_fin,
             comp_fin := fun _ => hfin
             comp_data := fun _ _ => ⟨hf, hfull hf, h.opl_eq, ?_, h.drop_eq.trans hfin⟩
             fill_lt := ?_, fill_count := ?_, fill_fin := ?_, rem_data := ?_, rem_else := ?_, drop_data := ?_
             comp_pad := ?_, comp_round := ?_, pad_fin := ?_, pad_a := ?_, pad_done := ?_, resp_status := ?_ } <;>
      simp [hfin, h.pstat_eq, updateStatus]

theorem State.Updating.absorb {b : Byte} (h : s.Updating) (hfin : s.fin = false) (ht : absorb b s = .ok t) :
    t.Updating := by
  obtain ⟨hlt, rfl⟩ := absorb_eq_ok.mp ht
  obtain ⟨hroom, hfull⟩ := h.absorbByte (b := b) hfin (absorbByte_eq_ok.mpr ⟨hlt, rfl⟩)
  by_cases hf : (s.fill + 1).toNat = 64
  · rw [compressIfFull_of_full hf]
    exact (hfull hf).1
  · rw [compressIfFull_of_not_full hf]
    exact hroom hf

/-- What collecting the first of some beats does: nothing where none is owed, else it drops the beat or absorbs it. -/
theorem collectBeats_cons_cases {b : Byte} {rest : List Byte} (ht : collectBeats (b :: rest) s = .ok t) :
    (s.rem = 0 ∧ t = s) ∨
    (s.rem ≠ 0 ∧ s.drop = true ∧ collectBeats rest (takeBeat rest s) = .ok t) ∨
    (s.rem ≠ 0 ∧ s.drop = false ∧ ∃ u, absorb b (takeBeat rest s) = .ok u ∧ collectBeats rest u = .ok t) := by
  by_cases hrem : s.rem = 0
  · rw [collectBeats_none_owed hrem] at ht
    cases ht
    exact .inl ⟨hrem, rfl⟩
  · cases hdrop : s.drop with
    | true =>
      rw [collectBeats_dropped hrem hdrop] at ht
      exact .inr (.inl ⟨hrem, rfl, ht⟩)
    | false =>
      cases ha : absorb b (takeBeat rest s) with
      | ok u =>
        rw [collectBeats_absorbed hrem hdrop ha] at ht
        exact .inr (.inr ⟨hrem, rfl, u, rfl, ht⟩)
      | error f =>
        rw [collectBeats, if_neg hrem, hdrop, if_neg (by decide), ha] at ht
        cases ht

theorem State.Updating.collectBeats : ∀ {bs : List Byte} {s t : State}, s.Updating → collectBeats bs s = .ok t →
    t.Updating
  | [], s, t, h, ht => by
    cases ht
    exact h
  | b :: rest, s, t, h, ht => by
    obtain ⟨-, rfl⟩ | ⟨-, -, ht⟩ | ⟨-, hdrop, u, hu, ht⟩ := collectBeats_cons_cases ht
    · exact h
    · exact (h.takeBeat rest).collectBeats ht
    · exact ((h.takeBeat rest).absorb (h.drop_eq.symm.trans hdrop) hu).collectBeats ht

/-! ### PAD and its block compressions -/

theorem State.Padding.padMark (h : s.Padding) (ht : padMark s = .ok t) : t.Padding := by
  obtain ⟨hlt, rfl⟩ := padMark_eq_ok.mp ht
  exact { h with
    buf_wf := Memory.wf_zeroFill (Memory.wf_write h.buf_wf hlt) hlt le_rfl
    fill_le := (fill_succ hlt).trans_le hlt }

theorem State.Padding.padFresh (h : s.Padding) : (padFresh s).Padding :=
  { h with buf_wf := Memory.wf_zeroFill h.buf_wf (by decide) (by decide) }

theorem State.Padding.padLength (h : s.Padding) : (padLength s).Padding :=
  { h with buf_wf := Memory.wf_writeLength h.buf_wf }

theorem State.Padding.endCompression (h : s.Padding) (hash : Words5) : (endCompression hash s).Padding :=
  { h with fill_le := Nat.zero_le 64 }

theorem State.Padding.compress (h : s.Padding) (ret : Ret) : (compress ret s).Padding :=
  { h.endCompression (compressWords s.h s.buf.blockWords) with }

theorem State.Padding.padOverflow (h : s.Padding) : (padOverflow s).Padding := by
  by_cases hroom : s.fill.toNat ≤ 56
  · rwa [padOverflow_of_room hroom]
  · rw [padOverflow_of_no_room (by omega)]
    exact (h.compress .padB).padFresh

/-! ### Every command -/

theorem State.Inv.padding_of_accept (h : s.Inv) (hidle : s.phase = .idle) (hfin : s.fin = false) :
    (latchOp 0b01 s).Padding where
  buf_wf := h.buf_wf
  fill_le := h.fill_le
  count_bytes := h.count_bytes
  rem_eq := h.rem_eq_zero (by simp [hidle]) (by simp [hidle])
  drop_eq := h.drop_eq_false hfin
  fin_eq := hfin
  opl_eq := rfl

theorem State.Inv.updating_of_accept (h : s.Inv) (hidle : s.phase = .idle) (len : BitVec 30) :
    (latchUpdate len s).Updating :=
  { h.settled (.inl hidle) with drop_fin := id, drop_eq := rfl, opl_eq := rfl, pstat_eq := rfl }

/-- A command answered from IDLE at once, with the status that FIN and the command call for. -/
theorem State.Inv.respond_of_accept (h : s.Inv) (hidle : s.phase = .idle) {op : BitVec 2} {status : Status}
    (hstatus : (op = 0b01 ∧ status = .ok ∧ s.fin = true) ∨ (op = 0b10 ∧ status = getStatus s.fin) ∨
      status = .illegalCommand) : (respond status (latchOp op s)).Inv :=
  State.Settled.inv_of_resp { h.settled (.inl hidle) with } rfl
    (h.rem_eq_zero (by simp [hidle]) (by simp [hidle])) (.inr hstatus)

theorem execFinish_of_fin (h : s.fin = true) : execFinish s = .next (respond .ok (latchOp 0b01 s)) := by
  unfold execFinish
  rw [if_pos h]

theorem execGet_eq (s : State) : execGet s = .next (respond (getStatus s.fin) (latchOp 0b10 s)) := by
  unfold execGet getStatus
  split <;> rfl

/-- Every command keeps the invariant as one operation. -/
theorem State.Inv.exec (h : s.Inv) (hidle : s.phase = .idle) {i : Instr} (ht : exec i s = .next t) : t.Inv := by
  cases i with
  | update len =>
    obtain ⟨u, hu, rfl⟩ := execUpdate_eq_next.mp ht
    exact ((h.updating_of_accept hidle len).collectBeats hu).inv_dataOrResp
  | finish =>
    replace ht : execFinish s = .next t := ht
    cases hfin : s.fin with
    | true =>
      rw [execFinish_of_fin hfin] at ht
      cases ht
      exact h.respond_of_accept hidle (.inl ⟨rfl, rfl, hfin⟩)
    | false =>
      obtain ⟨u, hu, rfl⟩ := (execFinish_eq_next hfin).mp ht
      obtain ⟨v, hv, rfl⟩ := padMessage_eq_ok.mp hu
      have hpad := ((h.padding_of_accept hidle hfin).padMark hv).padOverflow.padLength.compress .finishDone
      exact hpad.inv_markFinalized rfl
  | get =>
    replace ht : execGet s = .next t := ht
    rw [execGet_eq] at ht
    cases ht
    exact h.respond_of_accept hidle (.inr (.inl ⟨rfl, rfl⟩))
  | illegal word =>
    cases ht
    exact h.respond_of_accept hidle (.inr (.inr rfl))

/-! ### Every clock edge -/

theorem State.Inv.acceptCommand (h : s.Inv) (hidle : s.phase = .idle) (i : Instr) : (acceptCommand i s).Inv := by
  cases i with
  | update len => exact (h.updating_of_accept hidle len).inv_dataOrResp
  | finish =>
    cases hfin : s.fin with
    | true =>
      simp only [Machine.acceptCommand, hfin, if_true]
      exact h.respond_of_accept hidle (.inl ⟨rfl, rfl, hfin⟩)
    | false =>
      simp only [Machine.acceptCommand, hfin, Bool.false_eq_true, if_false]
      have hset := h.settled (.inl hidle)
      exact (h.padding_of_accept hidle hfin).inv_enterPad hset.fill_lt (fun _ => hset.fill_count hfin)
        (fun hc => nomatch hc)
  | get => exact h.respond_of_accept hidle (.inr (.inl ⟨rfl, rfl⟩))
  | illegal word => exact h.respond_of_accept hidle (.inr (.inr rfl))

theorem afterBeat_of_full (h : s.fill.toNat = 64) : afterBeat s = enterComp .data s := by
  simp [afterBeat, (blockFull_iff s.fill).mpr h]

theorem afterBeat_of_not_full (h : s.fill.toNat ≠ 64) : afterBeat s = dataOrResp s := by
  have hb : blockFull s.fill ≠ true := fun hb => h ((blockFull_iff s.fill).mp hb)
  simp [afterBeat, hb]

/-- What an edge in DATA does: it has no beat to move, drops one, or absorbs one. -/
theorem dataEdge_eq_ok :
    dataEdge s = .ok t ↔
      (s.rem = 0 ∧ t = dataOrResp s) ∨ (s.rem ≠ 0 ∧ s.beats = [] ∧ t = s) ∨
      (s.rem ≠ 0 ∧ ∃ b rest, s.beats = b :: rest ∧
        ((s.drop = true ∧ t = dataOrResp (takeBeat rest s)) ∨
         (s.drop = false ∧ ∃ u, absorbByte b (takeBeat rest s) = .ok u ∧ t = afterBeat u))) := by
  unfold dataEdge
  by_cases hrem : s.rem = 0#30
  · simp [hrem, eq_comm (a := t)]
  · cases hbeats : s.beats with
    | nil => simp [hrem, eq_comm (a := t)]
    | cons b rest =>
      cases hdrop : s.drop with
      | true => simp [hrem, eq_comm (a := t)]
      | false => cases ha : absorbByte b (takeBeat rest s) <;> simp [hrem, ha, eq_comm (a := t)]

theorem State.Inv.dataEdge (h : s.Inv) (hphase : s.phase = .data) (ht : dataEdge s = .ok t) : t.Inv := by
  have hupd := h.updating hphase
  obtain ⟨-, rfl⟩ | ⟨-, -, rfl⟩ | ⟨-, b, rest, -, ⟨-, rfl⟩ | ⟨hdrop, u, hu, rfl⟩⟩ := dataEdge_eq_ok.mp ht
  · exact hupd.inv_dataOrResp
  · exact h
  · exact (hupd.takeBeat rest).inv_dataOrResp
  · obtain ⟨hroom, hfull⟩ := (hupd.takeBeat rest).absorbByte (hupd.drop_eq.symm.trans hdrop) hu
    by_cases hf : u.fill.toNat = 64
    · rw [afterBeat_of_full hf]
      exact (hfull hf).2
    · rw [afterBeat_of_not_full hf]
      exact (hroom hf).inv_dataOrResp

theorem roundEdge_t_le (s : State) : (roundEdge s).t.toNat ≤ s.t.toNat + 1 := by
  simp only [roundEdge]
  split
  · exact (BitVec.toNat_add _ _).trans_le (Nat.mod_le _ _)
  · exact Nat.le_succ _

theorem State.Inv.roundEdge (h : s.Inv) (hphase : s.phase = .comp) (hround : s.compStep = .round) :
    (roundEdge s).Inv := by
  have ht : s.t.toNat < 80 := h.comp_round hphase (by simp [hround])
  refine { h with comp_round := fun _ _ => ?_ }
  by_cases hlast : s.t.toNat + 1 < Config.rounds
  · exact (roundEdge_t_le s).trans_lt hlast
  · simpa only [Machine.roundEdge, hlast, if_false] using ht

theorem State.Inv.leaveComp (h : s.Inv) (hphase : s.phase = .comp) (hash : Words5) :
    (leaveComp (endCompression hash s)).Inv := by
  have hfin := h.comp_fin hphase
  unfold Machine.leaveComp
  cases hret : s.ret with
  | data =>
    obtain ⟨-, hcount, hopl, hpstat, hdrop⟩ := h.comp_data hphase hret
    simp only [endCompression_ret, hret]
    refine State.Updating.inv_dataOrResp
      { buf_wf := h.buf_wf, fill_lt := by simp, count_bytes := h.count_bytes
        fill_count := fun _ => by simpa using hcount, fill_fin := fun _ => rfl, drop_fin := h.drop_fin
        drop_eq := hdrop.trans hfin.symm, opl_eq := hopl
        pstat_eq := by simp [hpstat, hfin, updateStatus] }
  | padA => exact absurd hret (h.comp_pad hphase (by simp [hret])).2
  | padB | finishDone =>
    have hpad := (h.padding_of_comp hphase (by simp [hret])).endCompression hash
    simp only [endCompression_ret, hret]
    exact hpad.inv_enterPad (by simp) (fun hc => nomatch hc) (fun _ => rfl)

theorem State.Inv.compEdge (h : s.Inv) (hphase : s.phase = .comp) : (compEdge s).Inv := by
  unfold Machine.compEdge
  split
  · exact { h with comp_round := fun _ _ => by simp }
  · next hround => exact h.roundEdge hphase hround
  · exact h.leaveComp hphase _

theorem padEdge_a_eq_ok (ha : s.padStep = .a) :
    padEdge s = .ok t ↔
      ∃ u, padMark s = .ok u ∧ t = if needsSecondBlock u.fill then enterComp .padB u else enterPad .c u := by
  simp only [padEdge, ha]
  cases padMark s <;> simp [eq_comm (a := t)]

theorem State.Inv.padEdge (h : s.Inv) (hphase : s.phase = .pad) (ht : padEdge s = .ok t) : t.Inv := by
  have hpad := h.padding_of_pad hphase
  cases hstep : s.padStep with
  | a =>
    obtain ⟨u, hu, rfl⟩ := (padEdge_a_eq_ok hstep).mp ht
    have hmark := hpad.padMark hu
    split
    · exact hmark.inv_enterComp (by simp) (by simp)
    · next hroom =>
      rw [needsSecondBlock_iff] at hroom
      exact hmark.inv_enterPad (by omega) (fun hc => nomatch hc) (fun hc => nomatch hc)
  | b =>
    simp only [Machine.padEdge, hstep, Except.ok.injEq] at ht
    exact ht ▸ hpad.padFresh.inv_enterPad (h.fill_lt (by simp [hphase])) (fun hc => nomatch hc) (fun hc => nomatch hc)
  | c =>
    simp only [Machine.padEdge, hstep, Except.ok.injEq] at ht
    exact ht ▸ hpad.padLength.inv_enterComp (by simp) (by simp)
  | done =>
    simp only [Machine.padEdge, hstep, Except.ok.injEq] at ht
    exact ht ▸ hpad.inv_markFinalized (h.pad_done hphase hstep)

theorem State.Inv.takeResponse (h : s.Inv) (hphase : s.phase = .resp) : (takeResponse s).Inv :=
  State.Settled.inv_of_idle { h.settled (.inr (.inr hphase)) with } rfl
    (h.rem_eq_zero (by simp [hphase]) (by simp [hphase]))

theorem State.Inv.clockEdge (h : s.Inv) (ht : clockEdge s = .ok t) : t.Inv := by
  unfold Machine.clockEdge at ht
  split at ht
  · next hidle =>
    split at ht
    · next i s' hnext =>
      obtain ⟨-, word, rest, -, -, rfl⟩ := nextCommand_eq_some.mp hnext
      cases ht
      exact State.Inv.acceptCommand (s := { s with cmds := rest }) { h with } hidle i
    · cases ht
      exact h
  · next hphase => exact h.dataEdge hphase ht
  · next hphase =>
    cases ht
    exact h.compEdge hphase
  · next hphase => exact h.padEdge hphase ht
  · next hphase =>
    cases ht
    split
    · exact h.takeResponse hphase
    · exact h

/-- Settles O40: a reset gives the invariant anew, and a command and a clock edge each keep it. -/
theorem everyStepKeepsTheInvariant : Obligations.EveryStepKeepsTheInvariant := by
  intro s t h hstep
  obtain ⟨-, ⟨-, rfl⟩ | ⟨-, i, s', u, hnext, hu, rfl⟩ | ⟨-, -, u, hu, rfl⟩⟩ := step_cases hstep
  · exact (resetEngine_inv s).noteOffers
  · obtain ⟨hidle, word, rest, -, -, rfl⟩ := nextCommand_eq_some.mp hnext
    exact (State.Inv.exec (s := { s with cmds := rest }) { h with } hidle hu).noteOffers
  · exact (h.clockEdge hu).noteOffers

end Sys2Proof.Machine
end

section
/-! Family 10_state.md, stale bytes and hidden registers: what no response depends on (10_state.md R48, R50, 20_memory.md
R75). The registers a response can depend on are `State.visible`; every operation reads of the rest only the buffer bytes
below a bound. -/

namespace Sys2Proof.Machine

/-- The state without the registers that may be stale: BUF, d, Q, t and the count of free values are blanked. -/
def State.visible (s : State) : State :=
  { s with buf := [], d := ⟨0, 0, 0, 0, 0⟩, q := Vector.replicate 16 0, t := 0, draws := 0 }

/-- The buffer bytes that may still be read before they are written lie below this address. -/
def State.bytesToRead (s : State) : Nat :=
  match s.phase, s.padStep with
  | .comp, _ => 64
  | .pad, .b => 0
  | .pad, .c => 56
  | _, _ => s.fill.toNat

/-- Two states alike but for the hidden registers and for buffer bytes from `n` on. -/
structure AlikeBelow (n : Nat) (s s' : State) : Prop where
  visible : s.visible = s'.visible
  buf_wf : s.buf.wf = true
  buf_wf' : s'.buf.wf = true
  agree : Memory.AgreeBelow n s.buf s'.buf

variable {n : Nat} {s s' t t' : State}

/-! ### Sameness by visible registers, buffer and hidden registers -/

theorem sameBuffer_iff : SameBuffer s s' ↔ Memory.AgreeBelow s.bytesToRead s.buf s'.buf := by
  unfold SameBuffer State.bytesToRead
  cases s.phase
  case pad => cases s.padStep <;> simp [Memory.AgreeBelow]
  all_goals rfl

theorem State.bytesToRead_of_quiet (hcomp : s.phase ≠ .comp) (hpad : s.phase ≠ .pad) :
    s.bytesToRead = s.fill.toNat := by
  unfold State.bytesToRead
  cases hp : s.phase <;> simp_all

theorem State.bytesToRead_le (hfill : s.fill.toNat ≤ 64) : s.bytesToRead ≤ 64 := by
  unfold State.bytesToRead
  split <;> omega

theorem same_iff : Same s s' ↔ s.visible = s'.visible ∧ SameBuffer s s' ∧ SameHidden s s' := by
  constructor
  · intro h
    refine ⟨?_, h.buffer, h.hidden⟩
    simp only [State.visible, State.mk.injEq, true_and]
    exact ⟨h.h, h.fill, h.count, h.fin, h.phase, h.opl, h.rem, h.drop, h.pstat, h.ret, h.padStep, h.compStep, h.started,
      h.rst, h.cmds, h.beats, h.rspReady, h.responses, h.heldCmd, h.heldBeat⟩
  · rintro ⟨h, hbuffer, hhidden⟩
    simp only [State.visible, State.mk.injEq, true_and] at h
    obtain ⟨h1, h2, h3, h4, h5, h6, h7, h8, h9, h10, h11, h12, h13, h14, h15, h16, h17, h18, h19, h20⟩ := h
    exact ⟨h1, h2, h3, h4, h5, h6, h7, h8, h9, h10, h11, h12, h13, h14, h15, h16, h17, h18, h19, h20, hbuffer, hhidden⟩

theorem sameHidden_of_load (h : s.phase = .comp → s.compStep = .load) : SameHidden s s' :=
  fun hcomp hload => absurd (h hcomp) hload

theorem Same.alikeBelow (h : Same s s') (hwf : s.buf.wf = true) (hwf' : s'.buf.wf = true) :
    AlikeBelow s.bytesToRead s s' :=
  ⟨(same_iff.mp h).1, hwf, hwf', sameBuffer_iff.mp h.buffer⟩

theorem windowGet_mod (q : Vector Word 16) (i : Nat) : windowGet q (i % 16) = windowGet q i := by
  simp [windowGet]

/-- W[t] comes from the block bytes, or from window words that are formed already (42_compression.md R220). -/
theorem windowWord_congr {buf buf' : Memory} {q q' : Vector Word 16} {t : Nat} (hbuf : Memory.AgreeBelow 64 buf buf')
    (hq : ∀ i, i < 16 → i < t → windowGet q i = windowGet q' i) : windowWord buf q t = windowWord buf' q' t := by
  unfold windowWord Config.blockWords
  split
  · simp only [Memory.blockWord, Memory.readWord]
    rw [hbuf _ (by omega), hbuf _ (by omega), hbuf _ (by omega), hbuf _ (by omega)]
  · have hall (i : Nat) : windowGet q i = windowGet q' i := by
      rw [← windowGet_mod q, ← windowGet_mod q']
      exact hq _ (by omega) (by omega)
    simp only [hall]

namespace AlikeBelow

theorem mono {m : Nat} (h : AlikeBelow n s s') (hm : m ≤ n) : AlikeBelow m s s' :=
  { h with agree := fun a ha => h.agree a (ha.trans_le hm) }

theorem same (h : AlikeBelow n s s') (hn : s.bytesToRead ≤ n) (hhidden : SameHidden s s') : Same s s' :=
  same_iff.mpr ⟨h.visible, sameBuffer_iff.mpr (h.mono hn).agree, hhidden⟩

/-- Outside COMP and PAD the bytes below FILL are all that is still to be read. -/
theorem same_of_quiet (h : AlikeBelow s.fill.toNat s s') (hcomp : s.phase ≠ .comp) (hpad : s.phase ≠ .pad) :
    Same s s' :=
  h.same (State.bytesToRead_of_quiet hcomp hpad).le (sameHidden_of_load fun hc => absurd hc hcomp)

theorem fill (h : AlikeBelow n s s') : s.fill = s'.fill := (congrArg State.fill h.visible :)
theorem fin (h : AlikeBelow n s s') : s.fin = s'.fin := (congrArg State.fin h.visible :)
theorem rem (h : AlikeBelow n s s') : s.rem = s'.rem := (congrArg State.rem h.visible :)
theorem drop (h : AlikeBelow n s s') : s.drop = s'.drop := (congrArg State.drop h.visible :)
theorem ret (h : AlikeBelow n s s') : s.ret = s'.ret := (congrArg State.ret h.visible :)
theorem compStep (h : AlikeBelow n s s') : s.compStep = s'.compStep := (congrArg State.compStep h.visible :)
theorem padStep (h : AlikeBelow n s s') : s.padStep = s'.padStep := (congrArg State.padStep h.visible :)
theorem phase (h : AlikeBelow n s s') : s.phase = s'.phase := (congrArg State.phase h.visible :)
theorem rspReady (h : AlikeBelow n s s') : s.rspReady = s'.rspReady := (congrArg State.rspReady h.visible :)
theorem beats (h : AlikeBelow n s s') : s.beats = s'.beats := (congrArg State.beats h.visible :)
theorem count (h : AlikeBelow n s s') : s.count = s'.count := (congrArg State.count h.visible :)
theorem hash (h : AlikeBelow n s s') : s.h = s'.h := (congrArg State.h h.visible :)

/-- An update that reads visible registers only and leaves the buffer alone. -/
theorem map (h : AlikeBelow n s s') (f : State → State)
    (hvisible : ∀ u, (f u).visible = (f u.visible).visible := by intro; rfl)
    (hbuf : ∀ u, (f u).buf = u.buf := by intro; rfl) : AlikeBelow n (f s) (f s') where
  visible := by rw [hvisible s, hvisible s', h.visible]
  buf_wf := hbuf s ▸ h.buf_wf
  buf_wf' := hbuf s' ▸ h.buf_wf'
  agree := by
    rw [hbuf, hbuf]
    exact h.agree

/-! ### ABSORB and PAD -/

theorem absorbByte {b : Byte} (h : AlikeBelow s.fill.toNat s s') (ht : absorbByte b s = .ok t) :
    ∃ t', Machine.absorbByte b s' = .ok t' ∧ AlikeBelow t.fill.toNat t t' := by
  obtain ⟨hlt, rfl⟩ := absorbByte_eq_ok.mp ht
  refine ⟨_, absorbByte_eq_ok.mpr ⟨h.fill ▸ hlt, rfl⟩, ?_, Memory.wf_write h.buf_wf hlt,
    Memory.wf_write h.buf_wf' (h.fill ▸ hlt), fun a ha => ?_⟩
  · exact congrArg (fun v : State => { v with fill := v.fill + 1, count := v.count + 8 }) h.visible
  · simp only [fill_succ hlt] at ha
    simp only [Memory.read_write h.buf_wf, Memory.read_write h.buf_wf', ← h.fill]
    split
    · rfl
    · exact h.agree a (by omega)

/-- A block compression reads all of the block. -/
theorem compress (h : AlikeBelow 64 s s') (ret : Ret) : AlikeBelow 64 (compress ret s) (compress ret s') := by
  have hhash : compressWords s.h s.buf.blockWords = compressWords s'.h s'.buf.blockWords := by
    rw [h.hash, Memory.blockWords_congr h.agree]
  unfold Machine.compress
  rw [← hhash]
  exact h.map (fun u => { endCompression (compressWords s.h s.buf.blockWords) u with ret := ret })

theorem compressIfFull (h : AlikeBelow s.fill.toNat s s') :
    AlikeBelow (compressIfFull s).fill.toNat (compressIfFull s) (compressIfFull s') := by
  by_cases hfull : s.fill.toNat = 64
  · rw [compressIfFull_of_full hfull, compressIfFull_of_full (h.fill ▸ hfull)]
    exact ((hfull ▸ h).compress .data).mono (Nat.zero_le _)
  · rw [compressIfFull_of_not_full hfull, compressIfFull_of_not_full (h.fill ▸ hfull)]
    exact h

theorem absorb {b : Byte} (h : AlikeBelow s.fill.toNat s s') (ht : absorb b s = .ok t) :
    ∃ t', Machine.absorb b s' = .ok t' ∧ AlikeBelow t.fill.toNat t t' := by
  obtain ⟨hlt, rfl⟩ := absorb_eq_ok.mp ht
  obtain ⟨u', hu', hu⟩ := h.absorbByte (b := b) (absorbByte_eq_ok.mpr ⟨hlt, rfl⟩)
  obtain ⟨hlt', rfl⟩ := absorbByte_eq_ok.mp hu'
  exact ⟨_, absorb_eq_ok.mpr ⟨hlt', rfl⟩, hu.compressIfFull⟩

theorem takeBeat (h : AlikeBelow n s s') (rest : List Byte) : AlikeBelow n (takeBeat rest s) (takeBeat rest s') :=
  h.map (Machine.takeBeat rest)

theorem collectBeats : ∀ {bs : List Byte} {s s' t : State}, AlikeBelow s.fill.toNat s s' → collectBeats bs s = .ok t →
    ∃ t', Machine.collectBeats bs s' = .ok t' ∧ AlikeBelow t.fill.toNat t t'
  | [], s, s', t, h, ht => by
    cases ht
    exact ⟨s', rfl, h⟩
  | b :: rest, s, s', t, h, ht => by
    obtain ⟨hrem, rfl⟩ | ⟨hrem, hdrop, ht⟩ | ⟨hrem, hdrop, u, hu, ht⟩ := collectBeats_cons_cases ht
    · exact ⟨s', collectBeats_none_owed (h.rem ▸ hrem), h⟩
    · obtain ⟨t', ht', halike⟩ := (h.takeBeat rest).collectBeats ht
      exact ⟨t', (collectBeats_dropped (h.rem ▸ hrem) (h.drop ▸ hdrop)).trans ht', halike⟩
    · obtain ⟨u', hu', hnext⟩ := (h.takeBeat rest).absorb hu
      obtain ⟨t', ht', halike⟩ := hnext.collectBeats ht
      exact ⟨t', (collectBeats_absorbed (h.rem ▸ hrem) (h.drop ▸ hdrop) hu').trans ht', halike⟩

/-- The first step of PAD writes every byte from FILL on. -/
theorem padMark (h : AlikeBelow s.fill.toNat s s') (ht : padMark s = .ok t) :
    ∃ t', Machine.padMark s' = .ok t' ∧ AlikeBelow 64 t t' := by
  obtain ⟨hlt, rfl⟩ := padMark_eq_ok.mp ht
  have hwf := Memory.wf_write (v := 0x80) h.buf_wf hlt
  have hwf' := Memory.wf_write (v := 0x80) h.buf_wf' (h.fill ▸ hlt)
  refine ⟨_, padMark_eq_ok.mpr ⟨h.fill ▸ hlt, rfl⟩, ?_, Memory.wf_zeroFill hwf hlt le_rfl,
    Memory.wf_zeroFill hwf' (h.fill ▸ hlt) le_rfl, fun a ha => ?_⟩
  · exact congrArg (fun v : State => { v with fill := v.fill + 1 }) h.visible
  · simp only [← h.fill] at hwf' ⊢
    rw [Memory.read_zeroFill a hwf hlt le_rfl, Memory.read_zeroFill a hwf' hlt le_rfl, Memory.read_write h.buf_wf,
      Memory.read_write h.buf_wf']
    split
    · rfl
    · split
      · rfl
      · exact h.agree a (by omega)

theorem padFresh (h : AlikeBelow n s s') : AlikeBelow 56 (padFresh s) (padFresh s') where
  visible := h.visible
  buf_wf := Memory.wf_zeroFill h.buf_wf (by decide) (by decide)
  buf_wf' := Memory.wf_zeroFill h.buf_wf' (by decide) (by decide)
  agree a ha := by
    simp only [padFresh_buf]
    rw [Memory.read_zeroFill a h.buf_wf (by decide) (by decide), Memory.read_zeroFill a h.buf_wf' (by decide) (by decide),
      if_pos ⟨Nat.zero_le a, ha⟩, if_pos ⟨Nat.zero_le a, ha⟩]

theorem padLength (h : AlikeBelow 56 s s') : AlikeBelow 64 (padLength s) (padLength s') where
  visible := h.visible
  buf_wf := Memory.wf_writeLength h.buf_wf
  buf_wf' := Memory.wf_writeLength h.buf_wf'
  agree a ha := by
    simp only [padLength_buf, ← h.count]
    rw [Memory.read_writeLength a h.buf_wf, Memory.read_writeLength a h.buf_wf']
    split
    · rfl
    · exact h.agree a (by omega)

theorem padOverflow (h : AlikeBelow 64 s s') : AlikeBelow 56 (padOverflow s) (padOverflow s') := by
  by_cases hroom : s.fill.toNat ≤ 56
  · rw [padOverflow_of_room hroom, padOverflow_of_room (h.fill ▸ hroom)]
    exact h.mono (by decide)
  · have hroom' : ¬ s'.fill.toNat ≤ 56 := h.fill ▸ hroom
    rw [padOverflow_of_no_room (Nat.lt_of_not_le hroom), padOverflow_of_no_room (Nat.lt_of_not_le hroom')]
    exact (h.compress .padB).padFresh

theorem padMessage (h : AlikeBelow s.fill.toNat s s') (ht : padMessage s = .ok t) :
    ∃ t', Machine.padMessage s' = .ok t' ∧ AlikeBelow 64 t t' := by
  obtain ⟨u, hu, rfl⟩ := padMessage_eq_ok.mp ht
  obtain ⟨u', hu', halike⟩ := h.padMark hu
  exact ⟨_, padMessage_eq_ok.mpr ⟨u', hu', rfl⟩, halike.padOverflow.padLength.compress .finishDone⟩

/-! ### Entering a phase -/

theorem dataOrResp (h : AlikeBelow s.fill.toNat s s') : Same (dataOrResp s) (dataOrResp s') := by
  have hmap := h.map Machine.dataOrResp
  refine same_of_quiet hmap ?_ ?_ <;> rw [dataOrResp_phase] <;> split <;> simp

theorem enterComp (h : AlikeBelow 64 s s') (ret : Ret) : Same (enterComp ret s) (enterComp ret s') :=
  same (h.map (Machine.enterComp ret)) le_rfl (sameHidden_of_load fun _ => rfl)

theorem enterPad (h : AlikeBelow n s s') (step : PadStep) (hn : (enterPad step s).bytesToRead ≤ n) :
    Same (enterPad step s) (enterPad step s') :=
  same (h.map (Machine.enterPad step)) hn (sameHidden_of_load fun hc => nomatch hc)

theorem markFinalized (h : AlikeBelow s.fill.toNat s s') : Same (markFinalized s) (markFinalized s') :=
  same_of_quiet (h.map Machine.markFinalized) (by simp) (by simp)

/-! ### Every command -/

theorem respond_latchOp (h : AlikeBelow s.fill.toNat s s') (status : Status) (op : BitVec 2) :
    Same (respond status (latchOp op s)) (respond status (latchOp op s')) :=
  same_of_quiet (h.map (fun u => respond status (latchOp op u))) (by simp) (by simp)

theorem exec (h : AlikeBelow s.fill.toNat s s') {i : Instr} (ht : exec i s = .next t) :
    ∃ t', Machine.exec i s' = .next t' ∧ Same t t' := by
  cases i with
  | update len =>
    obtain ⟨u, hu, rfl⟩ := execUpdate_eq_next.mp ht
    obtain ⟨u', hu', halike⟩ := (h.map (latchUpdate len)).collectBeats hu
    exact ⟨_, execUpdate_eq_next.mpr ⟨u', h.beats ▸ hu', rfl⟩, halike.dataOrResp⟩
  | finish =>
    replace ht : execFinish s = .next t := ht
    cases hfin : s.fin with
    | true =>
      rw [execFinish_of_fin hfin] at ht
      cases ht
      exact ⟨_, execFinish_of_fin (h.fin ▸ hfin), h.respond_latchOp _ _⟩
    | false =>
      obtain ⟨u, hu, rfl⟩ := (execFinish_eq_next hfin).mp ht
      obtain ⟨u', hu', halike⟩ := (h.map (latchOp 0b01)).padMessage hu
      have hfill : u.fill = 0 := by
        obtain ⟨v, -, rfl⟩ := padMessage_eq_ok.mp hu
        rfl
      exact ⟨_, (execFinish_eq_next (h.fin ▸ hfin)).mpr ⟨u', hu', rfl⟩, (halike.mono (by simp [hfill])).markFinalized⟩
  | get =>
    replace ht : execGet s = .next t := ht
    rw [execGet_eq] at ht
    cases ht
    exact ⟨_, execGet_eq s', h.fin ▸ h.respond_latchOp _ _⟩
  | illegal word =>
    cases ht
    exact ⟨_, rfl, h.respond_latchOp _ _⟩

/-! ### A block compression, edge by edge -/

theorem loadEdge (h : AlikeBelow 64 s s') (hphase : s.phase = .comp) :
    Same { s with d := s.h, t := 0, compStep := .round } { s' with d := s'.h, t := 0, compStep := .round } := by
  refine (h.map (fun u => { u with d := u.h, t := 0, compStep := .round })).same ?_ ?_
  · simp [State.bytesToRead, hphase]
  · exact fun _ _ => ⟨h.hash, rfl, fun i _ hi => absurd hi (Nat.not_lt_zero i)⟩

/-- A round forms the window word at t and reads only words that are formed already. -/
theorem roundEdge (h : AlikeBelow 64 s s') (hphase : s.phase = .comp) (hstep : s.compStep = .round)
    (hhidden : SameHidden s s') : Same (roundEdge s) (roundEdge s') := by
  obtain ⟨hd, ht, hq⟩ := hhidden hphase (by simp [hstep])
  have hw : windowWord s.buf s.q s.t.toNat = windowWord s'.buf s'.q s.t.toNat := windowWord_congr h.agree hq
  have hvisible : (Machine.roundEdge s).visible = (Machine.roundEdge s').visible := by
    unfold Machine.roundEdge
    rw [← ht]
    exact congrArg (fun v : State => { v with compStep := if s.t.toNat + 1 < Config.rounds then .round else .feed })
      h.visible
  have hround : AlikeBelow 64 (Machine.roundEdge s) (Machine.roundEdge s') := { h with visible := hvisible }
  refine hround.same ?_ fun _ _ => ⟨?_, ?_, ?_⟩
  · have hcomp : (Machine.roundEdge s).phase = .comp := hphase
    simp [State.bytesToRead, hcomp]
  · simp only [Machine.roundEdge, ← ht, ← hd, hw]
  · simp only [Machine.roundEdge, ← ht]
  · intro i hi hit
    simp only [Machine.roundEdge, ← ht, ← hw, windowGet_windowSet]
    split
    · rfl
    · next hne =>
      have hnext : (Machine.roundEdge s).t.toNat ≤ s.t.toNat + 1 := roundEdge_t_le s
      exact hq i hi (by omega)

theorem leaveComp (h : AlikeBelow 64 s s') (hfill : s.fill.toNat ≤ 56) : Same (leaveComp s) (leaveComp s') := by
  unfold Machine.leaveComp
  rw [← h.ret]
  cases s.ret with
  | data => exact (h.mono (by omega)).dataOrResp
  | padA | padB | finishDone => exact h.enterPad _ (State.bytesToRead_le (by simp; omega))

theorem compEdge (h : AlikeBelow 64 s s') (hphase : s.phase = .comp) (hhidden : SameHidden s s') :
    Same (compEdge s) (compEdge s') := by
  unfold Machine.compEdge
  rw [← h.compStep]
  cases hstep : s.compStep with
  | load => exact h.loadEdge hphase
  | round => exact h.roundEdge hphase hstep hhidden
  | feed =>
    have hd : s.d = s'.d := (hhidden hphase (by simp [hstep])).1
    simp only [← hd, ← h.hash]
    exact (h.map (endCompression (feedForward s.h s.d))).leaveComp (by simp)

/-! ### Every clock edge -/

theorem afterBeat (h : AlikeBelow s.fill.toNat s s') : Same (afterBeat s) (afterBeat s') := by
  by_cases hfull : s.fill.toNat = 64
  · rw [afterBeat_of_full hfull, afterBeat_of_full (h.fill ▸ hfull)]
    exact (hfull ▸ h).enterComp .data
  · rw [afterBeat_of_not_full hfull, afterBeat_of_not_full (h.fill ▸ hfull)]
    exact h.dataOrResp

theorem dataEdge (h : AlikeBelow s.fill.toNat s s') (hphase : s.phase = .data) (ht : dataEdge s = .ok t) :
    ∃ t', Machine.dataEdge s' = .ok t' ∧ Same t t' := by
  simp only [dataEdge_eq_ok, ← h.rem, ← h.beats, ← h.drop] at ht ⊢
  obtain ⟨hrem, rfl⟩ | ⟨hrem, hbeats, rfl⟩ | ⟨hrem, b, rest, hbeats, ⟨hdrop, rfl⟩ | ⟨hdrop, u, hu, rfl⟩⟩ := ht
  · exact ⟨_, .inl ⟨hrem, rfl⟩, h.dataOrResp⟩
  · exact ⟨_, .inr (.inl ⟨hrem, hbeats, rfl⟩), h.same_of_quiet (by simp [hphase]) (by simp [hphase])⟩
  · exact ⟨_, .inr (.inr ⟨hrem, b, rest, hbeats, .inl ⟨hdrop, rfl⟩⟩), (h.takeBeat rest).dataOrResp⟩
  · obtain ⟨u', hu', halike⟩ := (h.takeBeat rest).absorbByte hu
    exact ⟨_, .inr (.inr ⟨hrem, b, rest, hbeats, .inr ⟨hdrop, u', hu', rfl⟩⟩), halike.afterBeat⟩

theorem padEdge (h : AlikeBelow s.bytesToRead s s') (hphase : s.phase = .pad) (ht : padEdge s = .ok t) :
    ∃ t', Machine.padEdge s' = .ok t' ∧ Same t t' := by
  have hstep' := h.padStep
  cases hstep : s.padStep with
  | a =>
    have hfill : s.bytesToRead = s.fill.toNat := by simp [State.bytesToRead, hphase, hstep]
    obtain ⟨u, hu, rfl⟩ := (padEdge_a_eq_ok hstep).mp ht
    obtain ⟨u', hu', halike⟩ := (hfill ▸ h).padMark hu
    have hle : u.fill.toNat ≤ 64 := by
      obtain ⟨hlt, rfl⟩ := padMark_eq_ok.mp hu
      exact (fill_succ hlt).trans_le hlt
    refine ⟨_, (padEdge_a_eq_ok (hstep' ▸ hstep)).mpr ⟨u', hu', rfl⟩, ?_⟩
    rw [← halike.fill]
    split
    · exact halike.enterComp .padB
    · exact halike.enterPad .c (State.bytesToRead_le hle)
  | b =>
    simp only [Machine.padEdge, ← hstep', hstep, Except.ok.injEq] at ht ⊢
    exact ⟨_, rfl, ht ▸ h.padFresh.enterPad .c le_rfl⟩
  | c =>
    have h56 : s.bytesToRead = 56 := by simp [State.bytesToRead, hphase, hstep]
    simp only [Machine.padEdge, ← hstep', hstep, Except.ok.injEq] at ht ⊢
    exact ⟨_, rfl, ht ▸ (h56 ▸ h).padLength.enterComp .finishDone⟩
  | done =>
    have hfill : s.bytesToRead = s.fill.toNat := by simp [State.bytesToRead, hphase, hstep]
    simp only [Machine.padEdge, ← hstep', hstep, Except.ok.injEq] at ht ⊢
    exact ⟨_, rfl, ht ▸ (hfill ▸ h).markFinalized⟩

theorem clockEdge (h : AlikeBelow s.bytesToRead s s') (hhidden : SameHidden s s') (hnone : nextCommand s = none)
    (hnone' : nextCommand s' = none) (ht : clockEdge s = .ok t) : ∃ t', Machine.clockEdge s' = .ok t' ∧ Same t t' := by
  have hself : Same s s' := h.same le_rfl hhidden
  unfold Machine.clockEdge at ht ⊢
  rw [← h.phase]
  cases hphase : s.phase with
  | idle =>
    simp only [hphase, hnone, hnone', Except.ok.injEq] at ht ⊢
    exact ⟨_, rfl, ht ▸ hself⟩
  | data =>
    have hfill := s.bytesToRead_of_quiet (by simp [hphase]) (by simp [hphase])
    simp only [hphase] at ht ⊢
    exact (hfill ▸ h).dataEdge hphase ht
  | comp =>
    have h64 : s.bytesToRead = 64 := by simp [State.bytesToRead, hphase]
    simp only [hphase, Except.ok.injEq] at ht ⊢
    exact ⟨_, rfl, ht ▸ (h64 ▸ h).compEdge hphase hhidden⟩
  | pad =>
    simp only [hphase] at ht ⊢
    exact h.padEdge hphase ht
  | resp =>
    have hfill := s.bytesToRead_of_quiet (by simp [hphase]) (by simp [hphase])
    simp only [hphase, Except.ok.injEq, ← h.rspReady] at ht ⊢
    refine ⟨_, rfl, ?_⟩
    subst ht
    split
    · exact same_of_quiet ((hfill ▸ h).map Machine.takeResponse) (by simp) (by simp)
    · exact hself

end AlikeBelow

/-! ### Every step -/

theorem Same.noteOffers (h : Same t t') (hstart : s.visible = s'.visible) :
    Same (noteOffers s t) (noteOffers s' t') :=
  same_iff.mpr ⟨congrArg₂ Machine.noteOffers hstart (same_iff.mp h).1, h.buffer, h.hidden⟩

theorem resetEngine_same (hvisible : s.visible = s'.visible) : Same (resetEngine s) (resetEngine s') :=
  same_iff.mpr ⟨(congrArg (fun v => (resetEngine v).visible) hvisible :), sameBuffer_iff.mpr fun _ _ => rfl,
    sameHidden_of_load fun hc => nomatch hc⟩

theorem step_of_rst (hr : stepRefusal s = none) (hrst : s.rst = true) :
    step s = .next (noteOffers s (resetEngine s)) := by
  simp [step, hr, hrst]

theorem dutiesMet_of_stepRefusal (hr : stepRefusal s = none) (hrst : s.rst = false) : s.DutiesMet :=
  have ⟨hstarted, hcmd, hbeat⟩ := stepRefusal_eq_none.mp hr
  ⟨⟨offerHeld_eq_true.mp hcmd, offerHeld_eq_true.mp hbeat⟩, by simpa [hrst] using hstarted, hrst⟩

/-- Settles O49: a reset blanks the stale registers, and a command and a clock edge leave alike what they find alike. -/
theorem staleBytesReachNoResponse : Obligations.StaleBytesReachNoResponse := by
  intro s s' t h hwf hwf' hstep
  have halike := h.alikeBelow hwf hwf'
  obtain ⟨hr, ⟨hrst, rfl⟩ | ⟨hrst, i, u, v, hnext, hv, rfl⟩ | ⟨hrst, hnone, v, hv, rfl⟩⟩ := step_cases hstep
  all_goals have hr' : stepRefusal s' = none := (congrArg stepRefusal halike.visible :).symm.trans hr
  · exact ⟨_, step_of_rst hr' (h.rst ▸ hrst), (resetEngine_same halike.visible).noteOffers halike.visible⟩
  · obtain ⟨hidle, word, rest, hcmds, rfl, rfl⟩ := nextCommand_eq_some.mp hnext
    have hnext' : nextCommand s' = some (decode word, { s' with cmds := rest }) :=
      nextCommand_eq_some.mpr ⟨h.phase ▸ hidle, word, rest, h.cmds ▸ hcmds, rfl, rfl⟩
    rw [s.bytesToRead_of_quiet (by simp [hidle]) (by simp [hidle])] at halike
    obtain ⟨v', hv', hsame⟩ :=
      (halike.map (fun u => { u with cmds := rest })).exec hv
    have hduties' := dutiesMet_of_stepRefusal hr' (h.rst ▸ hrst)
    exact ⟨_, (step_of_nextCommand_eq_some hduties' hnext').trans (afterStep_eq_next.mpr ⟨v', hv', rfl⟩),
      hsame.noteOffers halike.visible⟩
  · have hnone' : nextCommand s' = none := by
      rw [nextCommand_eq_none] at hnone ⊢
      rwa [← h.phase, ← h.cmds]
    obtain ⟨v', hv', hsame⟩ := halike.clockEdge h.hidden hnone hnone' hv
    have hduties' := dutiesMet_of_stepRefusal hr' (h.rst ▸ hrst)
    exact ⟨_, (step_of_nextCommand_eq_none hduties' hnone').trans
      (afterStep_eq_next.mpr ⟨v', outcome_eq_next.mpr hv', rfl⟩), hsame.noteOffers halike.visible⟩

end Sys2Proof.Machine
end

section
/-! Family 10_state.md, FIN: what a finalised engine keeps (10_state.md R37, 41_finalize.md R177) and what sets FIN
(10_state.md R36, 41_finalize.md R182). -/

namespace Sys2Proof.Machine

/-- The architectural state (10_state.md R30): H, BUF, FILL, COUNT and FIN. -/
def State.arch (s : State) : Words5 × Memory × BitVec 7 × BitVec 64 × Bool := (s.h, s.buf, s.fill, s.count, s.fin)

variable {s t : State}

/-! ### A finalised engine -/

theorem collectBeats_arch_of_drop : ∀ {bs : List Byte} {s t : State}, s.drop = true → collectBeats bs s = .ok t →
    t.arch = s.arch
  | [], s, t, _, ht => by
    cases ht
    rfl
  | b :: rest, s, t, hdrop, ht => by
    obtain ⟨-, rfl⟩ | ⟨-, -, ht⟩ | ⟨-, hkeep, -⟩ := collectBeats_cons_cases ht
    · rfl
    · exact collectBeats_arch_of_drop (s := takeBeat rest s) hdrop ht
    · exact absurd hdrop (by simp [hkeep])

theorem exec_arch_of_fin {i : Instr} (hfin : s.fin = true) (ht : exec i s = .next t) : t.arch = s.arch := by
  cases i with
  | update len =>
    obtain ⟨u, hu, rfl⟩ := execUpdate_eq_next.mp ht
    exact collectBeats_arch_of_drop (s := latchUpdate len s) (t := u) hfin hu
  | finish =>
    replace ht : execFinish s = .next t := ht
    rw [execFinish_of_fin hfin] at ht
    cases ht
    rfl
  | get =>
    replace ht : execGet s = .next t := ht
    rw [execGet_eq] at ht
    cases ht
    rfl
  | illegal word =>
    cases ht
    rfl

/-- The invariant shuts out COMP and PAD, and an UPDATE that is collecting drops its beats. -/
theorem clockEdge_arch_of_fin (h : s.Inv) (hfin : s.fin = true) (hnone : nextCommand s = none)
    (ht : clockEdge s = .ok t) : t.arch = s.arch := by
  unfold clockEdge at ht
  cases hphase : s.phase with
  | idle =>
    simp only [hphase, hnone, Except.ok.injEq] at ht
    exact ht ▸ rfl
  | data =>
    have hdrop : s.drop = true := (h.drop_data hphase).1.trans hfin
    simp only [hphase, dataEdge_eq_ok] at ht
    obtain ⟨-, rfl⟩ | ⟨-, -, rfl⟩ | ⟨-, b, rest, -, ⟨-, rfl⟩ | ⟨hkeep, -⟩⟩ := ht
    · rfl
    · rfl
    · rfl
    · exact absurd hdrop (by simp [hkeep])
  | comp => exact absurd hfin (by simp [h.comp_fin hphase])
  | pad => exact absurd hfin (by simp [(h.pad_fin hphase).1])
  | resp =>
    simp only [hphase, Except.ok.injEq] at ht
    subst ht
    split <;> rfl

/-- Settles O42: a command and a clock edge of a finalised engine leave the architectural state as it is. -/
theorem finalizedStateIsFrozen : Obligations.FinalizedStateIsFrozen := by
  intro s t h hfin hrst hstep
  have harch : t.arch = s.arch := by
    obtain ⟨-, ⟨hrst', -⟩ | ⟨-, i, u, v, hnext, hv, rfl⟩ | ⟨-, hnone, v, hv, rfl⟩⟩ := step_cases hstep
    · exact absurd hrst' (by simp [hrst])
    · obtain ⟨-, word, rest, -, -, rfl⟩ := nextCommand_eq_some.mp hnext
      exact exec_arch_of_fin (s := { s with cmds := rest }) (t := v) hfin hv
    · exact clockEdge_arch_of_fin (t := v) h hfin hnone hv
  simp only [State.arch, Prod.mk.injEq] at harch
  obtain ⟨hh, hbuf, hfill, hcount, hf⟩ := harch
  exact ⟨hh, hbuf, hfill, hcount, hf.trans hfin⟩

/-! ### What sets FIN -/

theorem exec_fin {i : Instr} (ht : exec i s = .next t) : t.fin = s.fin ∨ (i = .finish ∧ t.fin = true) := by
  cases i with
  | update len =>
    obtain ⟨u, hu, rfl⟩ := execUpdate_eq_next.mp ht
    exact .inl (collectBeats_frame hu).1
  | finish =>
    cases hfin : s.fin with
    | true =>
      replace ht : execFinish s = .next t := ht
      rw [execFinish_of_fin hfin] at ht
      cases ht
      exact .inl hfin
    | false =>
      obtain ⟨u, -, rfl⟩ := (execFinish_eq_next hfin).mp ht
      exact .inr ⟨rfl, rfl⟩
  | get =>
    replace ht : execGet s = .next t := ht
    rw [execGet_eq] at ht
    cases ht
    exact .inl rfl
  | illegal word =>
    cases ht
    exact .inl rfl

theorem afterBeat_fin (s : State) : (afterBeat s).fin = s.fin := by
  unfold afterBeat
  split <;> rfl

theorem dataEdge_fin (ht : dataEdge s = .ok t) : t.fin = s.fin := by
  obtain ⟨-, rfl⟩ | ⟨-, -, rfl⟩ | ⟨-, b, rest, -, ⟨-, rfl⟩ | ⟨-, u, hu, rfl⟩⟩ := dataEdge_eq_ok.mp ht
  · rfl
  · rfl
  · rfl
  · obtain ⟨-, rfl⟩ := absorbByte_eq_ok.mp hu
    exact afterBeat_fin _

theorem leaveComp_fin (s : State) : (leaveComp s).fin = s.fin := by
  unfold leaveComp
  split <;> rfl

theorem compEdge_fin (s : State) : (compEdge s).fin = s.fin := by
  unfold compEdge
  split
  · rfl
  · rfl
  · exact leaveComp_fin _

theorem padEdge_fin (ht : padEdge s = .ok t) : t.fin = s.fin ∨ (s.padStep = .done ∧ t.fin = true) := by
  cases hstep : s.padStep with
  | a =>
    obtain ⟨u, hu, rfl⟩ := (padEdge_a_eq_ok hstep).mp ht
    obtain ⟨-, rfl⟩ := padMark_eq_ok.mp hu
    exact .inl (by split <;> rfl)
  | b | c =>
    simp only [padEdge, hstep, Except.ok.injEq] at ht
    exact .inl (ht ▸ rfl)
  | done =>
    simp only [padEdge, hstep, Except.ok.injEq] at ht
    exact .inr ⟨rfl, ht ▸ rfl⟩

theorem clockEdge_fin (hnone : nextCommand s = none) (ht : clockEdge s = .ok t) :
    t.fin = s.fin ∨ (s.phase = .pad ∧ s.padStep = .done ∧ t.fin = true) := by
  unfold clockEdge at ht
  cases hphase : s.phase with
  | idle =>
    simp only [hphase, hnone, Except.ok.injEq] at ht
    exact .inl (ht ▸ rfl)
  | data =>
    simp only [hphase] at ht
    exact .inl (dataEdge_fin ht)
  | comp =>
    simp only [hphase, Except.ok.injEq] at ht
    exact .inl (ht ▸ compEdge_fin s)
  | pad =>
    simp only [hphase] at ht
    exact (padEdge_fin ht).imp id fun hdone => ⟨rfl, hdone⟩
  | resp =>
    simp only [hphase, Except.ok.injEq] at ht
    subst ht
    exact .inl (by split <;> rfl)

/-- FINISH has one word (30_encoding.md R113). -/
theorem eq_of_decode_eq_finish {word : BitVec 32} (h : decode word = .finish) : word = 0x40000000 := by
  unfold decode at h
  split at h
  · cases h
  · split at h
    · next hfields =>
      rw [← packWord_fields word, hfields.1, hfields.2]
      decide
    · split at h <;> cases h

/-- Settles O43: a command and a clock edge keep FIN but for FINISH and for the last edge of padding. -/
theorem onlyFinishSetsFin : Obligations.OnlyFinishSetsFin := by
  intro s t hstep
  obtain ⟨-, ⟨hrst, rfl⟩ | ⟨hrst, i, u, v, hnext, hv, rfl⟩ | ⟨hrst, hnone, v, hv, rfl⟩⟩ := step_cases hstep
  · exact ⟨fun _ => rfl, fun hlow => absurd hrst (by simp [hlow]), fun hlow => absurd hrst (by simp [hlow])⟩
  · obtain ⟨hidle, word, rest, hcmds, rfl, rfl⟩ := nextCommand_eq_some.mp hnext
    refine ⟨fun hhigh => absurd hrst (by simp [hhigh]), fun _ hfin => ?_, fun _ hfin hset => .inl ⟨hidle, rest, ?_⟩⟩
    · exact (exec_fin hv).elim (·.trans hfin) (·.2)
    · obtain hkeep | ⟨hfinish, -⟩ := exec_fin hv
      · exact absurd (hkeep.symm.trans hset) (by simp [hfin])
      · rw [hcmds, eq_of_decode_eq_finish hfinish]
  · refine ⟨fun hhigh => absurd hrst (by simp [hhigh]), fun _ hfin => ?_, fun _ hfin hset => .inr ?_⟩
    · exact (clockEdge_fin hnone hv).elim (·.trans hfin) (·.2.2)
    · obtain hkeep | ⟨hpad, hdone, -⟩ := clockEdge_fin hnone hv
      · exact absurd (hkeep.symm.trans hset) (by simp [hfin])
      · exact ⟨hpad, hdone, fun hinv => (hinv.pad_fin hpad).2⟩

end Sys2Proof.Machine
end

section
/-! Family 10_state.md, the stream invariant: what absorbing bytes does to H, BUF, FILL and COUNT (10_state.md R38,
40_update.md R140). -/

namespace Sys2Proof.Machine

/-- The bytes `m` absorbed from digest state `h₀`, an empty buffer and count `c₀` on: whole blocks are folded into H and
the rest stands in BUF. From IV and 0 it is the stream invariant (`stream_iff`). -/
structure Absorbed (h₀ : Words5) (c₀ : BitVec 64) (m : List Byte) (s : State) : Prop where
  fill : s.fill.toNat = m.length % 64
  count : s.count = c₀ + BitVec.ofNat 64 (8 * m.length)
  buf : s.buf.readBytes 0 s.fill.toNat = m.drop (64 * (m.length / 64))
  h : s.h = hashBlocks (m.length / 64) h₀ m

variable {h₀ : Words5} {c₀ : BitVec 64} {m : List Byte} {s t : State}

theorem stream_iff : Stream m s ↔ s.fin = false ∧ Absorbed iv 0 m s := by
  constructor
  · rintro ⟨hfin, hfill, hcount, hbuf, hh⟩
    exact ⟨hfin, hfill, by simpa using hcount, hbuf, hh⟩
  · rintro ⟨hfin, hfill, hcount, hbuf, hh⟩
    exact ⟨hfin, hfill, by simpa using hcount, hbuf, hh⟩

/-- Settles O44: no block and no byte stand in the reset state. -/
theorem freshEngineHoldsTheEmptyMessage : Obligations.FreshEngineHoldsTheEmptyMessage :=
  stream_iff.mpr ⟨rfl, rfl, rfl, rfl, rfl⟩

/-! ### Folding one more block -/

/-- Whole blocks of a message fold the same whatever follows them. -/
theorem hashBlocks_append (x : List Byte) : ∀ {k : Nat} (h : Words5) {m : List Byte}, 64 * k ≤ m.length →
    hashBlocks k h (m ++ x) = hashBlocks k h m
  | 0, _, _, _ => rfl
  | k + 1, h, m, hm => by
    simp only [hashBlocks]
    rw [List.take_append_of_le_length (by omega), List.drop_append_of_le_length (by omega),
      hashBlocks_append x _ (by rw [List.length_drop]; omega)]

/-- The last of several blocks is folded last. -/
theorem hashBlocks_succ : ∀ (k : Nat) (h : Words5) (m : List Byte),
    hashBlocks (k + 1) h m = compressBytes (hashBlocks k h m) ((m.drop (64 * k)).take 64)
  | 0, _, _ => rfl
  | k + 1, h, m => by
    rw [hashBlocks, hashBlocks_succ k, List.drop_drop, hashBlocks, Nat.mul_succ, Nat.add_comm 64]

/-! ### One byte more -/

/-- The byte after those read, written and read with them. -/
theorem Memory.readBytes_write_end {buf : Memory} (hwf : buf.wf = true) (n : Nat) (b : Byte) :
    (buf.write n b).readBytes 0 (n + 1) = buf.readBytes 0 n ++ [b] := by
  have hbelow : (buf.write n b).readBytes 0 n = buf.readBytes 0 n := Memory.readBytes_congr fun k hk => by
    rw [Memory.read_write hwf, if_neg (by omega)]
  calc (buf.write n b).readBytes 0 (n + 1)
      = (buf.write n b).readBytes 0 n ++ [(buf.write n b).read (0 + n)] := by
        simp only [Memory.readBytes, List.range_succ, List.map_append, List.map_cons, List.map_nil]
    _ = buf.readBytes 0 n ++ [b] := by rw [hbelow, Memory.read_write hwf, if_pos (Nat.zero_add n)]

theorem Absorbed.fill_lt (h : Absorbed h₀ c₀ m s) : s.fill.toNat < 64 := by
  rw [h.fill]
  exact Nat.mod_lt _ (by decide)

theorem Absorbed.takeBeat (h : Absorbed h₀ c₀ m s) (rest : List Byte) : Absorbed h₀ c₀ m (takeBeat rest s) := { h with }

theorem Absorbed.absorb (h : Absorbed h₀ c₀ m s) (hwf : s.buf.wf = true) (b : Byte) :
    ∃ t, absorb b s = .ok t ∧ Absorbed h₀ c₀ (m ++ [b]) t ∧ t.buf.wf = true := by
  have hlt := h.fill_lt
  have hlen : (m ++ [b]).length = m.length + 1 := by simp
  have hmod := h.fill
  have hfill : (s.fill + 1).toNat = m.length % 64 + 1 := by rw [fill_succ hlt, h.fill]
  have hcount : s.count + 8 = c₀ + BitVec.ofNat 64 (8 * (m ++ [b]).length) := by
    rw [h.count, hlen, Nat.mul_succ, BitVec.ofNat_add, BitVec.add_assoc]
    rfl
  have hbuf : (s.buf.write s.fill.toNat b).readBytes 0 (s.fill.toNat + 1) = (m ++ [b]).drop (64 * (m.length / 64)) := by
    rw [Memory.readBytes_write_end hwf, h.buf, List.drop_append_of_le_length (Nat.mul_div_le _ _)]
  have hhash : s.h = hashBlocks (m.length / 64) h₀ (m ++ [b]) := by
    rw [hashBlocks_append [b] h₀ (Nat.mul_div_le _ _), h.h]
  refine ⟨_, absorb_eq_ok.mpr ⟨hlt, rfl⟩, ?_, ?_⟩
  · by_cases hfull : (s.fill + 1).toNat = 64
    · have hblocks : (m ++ [b]).length / 64 = m.length / 64 + 1 := by omega
      rw [compressIfFull_of_full hfull]
      refine ⟨?_, hcount, ?_, ?_⟩
      · rw [compress_fill, hlen]
        show 0 = _
        omega
      · rw [hblocks, List.drop_of_length_le (by omega)]
        rfl
      · have h64 : s.fill.toNat + 1 = 64 := by omega
        have hblock : ((m ++ [b]).drop (64 * (m.length / 64))).take 64 = (s.buf.write s.fill.toNat b).readBytes 0 64 := by
          rw [← hbuf, h64]
          exact List.take_of_length_le (by simp)
        rw [hblocks, hashBlocks_succ, hblock, ← hhash, compress_h, Memory.blockWords_eq_wordsOfBytes]
        rfl
    · have hblocks : (m ++ [b]).length / 64 = m.length / 64 := by omega
      rw [compressIfFull_of_not_full hfull]
      refine ⟨?_, hcount, ?_, ?_⟩
      · rw [hfill, hlen]
        omega
      · rw [hblocks, ← hbuf, ← fill_succ hlt]
      · rw [hblocks]
        exact hhash
  · rw [(compressIfFull_frame _).1]
    exact Memory.wf_write hwf hlt

/-! ### The beats of an UPDATE -/

theorem absorb_rem_drop {b : Byte} (ht : absorb b s = .ok t) : t.rem = s.rem ∧ t.drop = s.drop := by
  obtain ⟨-, rfl⟩ := absorb_eq_ok.mp ht
  simp [compressIfFull_frame]

/-- UPDATE never faults on the way, and absorbs as many of the beats offered as it owes. -/
theorem Absorbed.collectBeats : ∀ (bs : List Byte) {m : List Byte} {s : State}, Absorbed h₀ c₀ m s → s.buf.wf = true →
    s.drop = false →
    ∃ t, collectBeats bs s = .ok t ∧ Absorbed h₀ c₀ (m ++ bs.take s.rem.toNat) t ∧ t.buf.wf = true
  | [], m, s, h, hwf, _ => ⟨s, rfl, by simpa using h, hwf⟩
  | b :: rest, m, s, h, hwf, hdrop => by
    by_cases hrem : s.rem = 0
    · refine ⟨s, collectBeats_none_owed hrem, ?_, hwf⟩
      simpa [hrem] using h
    · obtain ⟨u, hu, habsorbed, huwf⟩ := (h.takeBeat rest).absorb hwf b
      obtain ⟨hurem, hudrop⟩ := absorb_rem_drop hu
      have howed : s.rem.toNat = u.rem.toNat + 1 := by
        rw [hurem, takeBeat_rem]
        bv_omega
      obtain ⟨t, ht, htabsorbed, htwf⟩ := habsorbed.collectBeats rest huwf (hudrop.trans hdrop)
      refine ⟨t, (collectBeats_absorbed hrem hdrop hu).trans ht, ?_, htwf⟩
      rw [howed, List.take_succ_cons, List.append_cons]
      exact htabsorbed

/-- Settles O45: the beats are collected one by one, each a byte more. -/
theorem updateExtendsTheMessage : Obligations.UpdateExtendsTheMessage := by
  intro m s len hstream hwf _
  obtain ⟨hfin, habsorbed⟩ := stream_iff.mp hstream
  have hlatched : Absorbed iv 0 m (latchUpdate len s) := { habsorbed with }
  obtain ⟨u, hu, huabsorbed, huwf⟩ := hlatched.collectBeats s.beats hwf hfin
  have hufin : u.fin = false := (collectBeats_frame hu).1.trans hfin
  exact ⟨dataOrResp u, execUpdate_eq_next.mpr ⟨u, hu, rfl⟩, stream_iff.mpr ⟨hufin, { huabsorbed with }⟩, huwf⟩

end Sys2Proof.Machine
end

section
/-! Family 20_memory.md, byte order: block words and the length field are big-endian (20_memory.md R72, R73, R76). -/

namespace Sys2Proof.Machine

/-- Byte j of a big-endian word, counted from the most significant. -/
theorem extractLsb'_be32 (byte : Nat → Byte) {j : Nat} (hj : j < 4) :
    (be32 (byte 0) (byte 1) (byte 2) (byte 3)).extractLsb' (24 - 8 * j) 8 = byte j := by
  apply BitVec.eq_of_getLsbD_eq
  intro i hi
  rw [BitVec.getLsbD_extractLsb', getLsbD_be32, decide_eq_true hi, Bool.true_and]
  interval_cases j
  · rw [if_neg (by omega), if_neg (by omega), if_neg (by omega), Nat.add_sub_cancel_left]
  · rw [if_neg (by omega), if_neg (by omega), if_pos (by omega), Nat.add_sub_cancel_left]
  · rw [if_neg (by omega), if_pos (by omega), Nat.add_sub_cancel_left]
  · rw [if_pos (by omega), Nat.zero_add]

/-- Settles O23: a block word is the big-endian word of the bytes at its four addresses. -/
theorem lowerAddressIsMoreSignificant : Obligations.LowerAddressIsMoreSignificant := fun m i _ _ hj =>
  extractLsb'_be32 (fun k => m.read (4 * i + k)) hj

/-- Byte k of a big-endian 64-bit value, counted from the most significant. -/
theorem getD_be64bytes (c : BitVec 64) {k : Nat} (hk : k < 8) :
    (be64bytes c).getD k 0 = c.extractLsb' (56 - 8 * k) 8 := by
  interval_cases k <;> rfl

/-- Settles O24: what a buffer reads as once the length field is written. -/
theorem lengthFieldIsBigEndian : Obligations.LengthFieldIsBigEndian := by
  intro m len hwf
  refine ⟨fun k hk => ?_, fun a ha => ?_⟩
  · rw [Memory.read_writeLength _ hwf, if_pos (by omega), Nat.add_sub_cancel_left, getD_be64bytes len hk]
  · rw [Memory.read_writeLength _ hwf, if_neg (by omega)]

end Sys2Proof.Machine
end

section
/-! Family 20_memory.md, buffer accesses: FILL is below 64 wherever a byte is stored, so that no access is out of range
and every operation answers a state (20_memory.md R71, 60_exceptions.md R255). -/

namespace Sys2Proof.Machine

variable {s : State}

/-! ### The operations that store a byte -/

theorem exists_absorb_eq_ok (b : Byte) (h : s.fill.toNat < 64) : ∃ t, absorb b s = .ok t :=
  ⟨_, absorb_eq_ok.mpr ⟨h, rfl⟩⟩

theorem exists_padMark_eq_ok (h : s.fill.toNat < 64) : ∃ t, padMark s = .ok t :=
  ⟨_, padMark_eq_ok.mpr ⟨h, rfl⟩⟩

/-- Every beat absorbed leaves room for the next. -/
theorem exists_collectBeats_eq_ok : ∀ (bs : List Byte) {s : State}, s.Updating → ∃ t, collectBeats bs s = .ok t
  | [], s, _ => ⟨s, rfl⟩
  | b :: rest, s, h => by
    have hbeat := h.takeBeat rest
    by_cases hrem : s.rem = 0
    · exact ⟨s, collectBeats_none_owed hrem⟩
    · cases hdrop : s.drop with
      | true =>
        rw [collectBeats_dropped hrem hdrop]
        exact exists_collectBeats_eq_ok rest hbeat
      | false =>
        obtain ⟨u, hu⟩ := exists_absorb_eq_ok b hbeat.fill_lt
        rw [collectBeats_absorbed hrem hdrop hu]
        exact exists_collectBeats_eq_ok rest (hbeat.absorb (h.drop_eq.symm.trans hdrop) hu)

/-! ### Every command and every clock edge -/

theorem exists_exec_eq_next (h : s.Inv) (hidle : s.phase = .idle) (i : Instr) : ∃ t, exec i s = .next t := by
  cases i with
  | update len =>
    obtain ⟨u, hu⟩ := exists_collectBeats_eq_ok s.beats (h.updating_of_accept hidle len)
    exact ⟨_, execUpdate_eq_next.mpr ⟨u, hu, rfl⟩⟩
  | finish =>
    cases hfin : s.fin with
    | true => exact ⟨_, execFinish_of_fin hfin⟩
    | false =>
      obtain ⟨u, hu⟩ := exists_padMark_eq_ok (s := latchOp 0b01 s) (h.settled (.inl hidle)).fill_lt
      exact ⟨_, (execFinish_eq_next hfin).mpr ⟨_, padMessage_eq_ok.mpr ⟨u, hu, rfl⟩, rfl⟩⟩
  | get => exact ⟨_, execGet_eq s⟩
  | illegal word => exact ⟨_, rfl⟩

theorem exists_dataEdge_eq_ok (h : s.fill.toNat < 64) : ∃ t, dataEdge s = .ok t := by
  by_cases hrem : s.rem = 0
  · exact ⟨_, dataEdge_eq_ok.mpr (.inl ⟨hrem, rfl⟩)⟩
  · cases hbeats : s.beats with
    | nil => exact ⟨_, dataEdge_eq_ok.mpr (.inr (.inl ⟨hrem, hbeats, rfl⟩))⟩
    | cons b rest =>
      cases hdrop : s.drop with
      | true => exact ⟨_, dataEdge_eq_ok.mpr (.inr (.inr ⟨hrem, b, rest, hbeats, .inl ⟨hdrop, rfl⟩⟩))⟩
      | false =>
        have habsorb := (absorbByte_eq_ok (b := b) (s := takeBeat rest s)).mpr ⟨h, rfl⟩
        exact ⟨_, dataEdge_eq_ok.mpr (.inr (.inr ⟨hrem, b, rest, hbeats, .inr ⟨hdrop, _, habsorb, rfl⟩⟩))⟩

theorem exists_padEdge_eq_ok (h : s.fill.toNat < 64) : ∃ t, padEdge s = .ok t := by
  cases hstep : s.padStep with
  | a =>
    obtain ⟨u, hu⟩ := exists_padMark_eq_ok h
    exact ⟨_, (padEdge_a_eq_ok hstep).mpr ⟨u, hu, rfl⟩⟩
  | b | c | done =>
    simp only [padEdge, hstep]
    exact ⟨_, rfl⟩

/-- Only DATA and PAD store a byte at FILL, and there the invariant keeps FILL below 64. -/
theorem exists_clockEdge_eq_ok (h : s.Inv) : ∃ t, clockEdge s = .ok t := by
  unfold clockEdge
  split
  · split <;> exact ⟨_, rfl⟩
  · next hdata => exact exists_dataEdge_eq_ok (h.fill_lt (by simp [hdata]))
  · exact ⟨_, rfl⟩
  · next hpad => exact exists_padEdge_eq_ok (h.fill_lt (by simp [hpad]))
  · exact ⟨_, rfl⟩

/-- Settles O41: a reset answers a state, and so do the next command and, where there is none, the clock edge. -/
theorem engineNeverStops : Obligations.EngineNeverStops := by
  rintro s h (⟨hrst, hoffers⟩ | hduties)
  · have hr : stepRefusal s = none :=
      (stepRefusal_of_rst hrst).mpr ⟨offerHeld_eq_true.mpr hoffers.cmd_held, offerHeld_eq_true.mpr hoffers.beat_held⟩
    exact ⟨_, step_of_rst hr hrst⟩
  · cases hnext : nextCommand s with
    | some command =>
      obtain ⟨i, s'⟩ := command
      obtain ⟨hidle, word, rest, -, -, rfl⟩ := nextCommand_eq_some.mp hnext
      obtain ⟨t, ht⟩ := exists_exec_eq_next (s := { s with cmds := rest }) { h with } hidle i
      exact ⟨_, (step_of_nextCommand_eq_some hduties hnext).trans (afterStep_eq_next.mpr ⟨t, ht, rfl⟩)⟩
    | none =>
      obtain ⟨t, ht⟩ := exists_clockEdge_eq_ok h
      exact ⟨_, (step_of_nextCommand_eq_none hduties hnext).trans
        (afterStep_eq_next.mpr ⟨t, outcome_eq_next.mpr ht, rfl⟩)⟩

end Sys2Proof.Machine
end

section
/-! Family 30_encoding.md, command words: what each word decodes to by its two fields, the opcode map's rows as
conditions on the fields, and that encoding undoes decoding (30_encoding.md R104, R109, R110, R113). -/

namespace Sys2Proof

open Laws.EncodedFields (opField_values illegalWord_iff)

/-! ### A word and its fields -/

theorem packWord_eq_iff {op op' : BitVec 2} {len len' : BitVec 30} :
    packWord op len = packWord op' len' ↔ op = op' ∧ len = len' := by
  constructor
  · intro h
    exact ⟨by simpa using congrArg opField h, by simpa using congrArg lenField h⟩
  · rintro ⟨rfl, rfl⟩
    rfl

theorem eq_packWord_iff {word : BitVec 32} {op : BitVec 2} {len : BitVec 30} :
    word = packWord op len ↔ opField word = op ∧ lenField word = len := by
  rw [← packWord_eq_iff, packWord_fields]

/-- A mask acts on each field alone. -/
theorem and_packWord (word : BitVec 32) (op : BitVec 2) (len : BitVec 30) :
    word &&& packWord op len = packWord (opField word &&& op) (lenField word &&& len) :=
  calc word &&& packWord op len
      = packWord (opField word) (lenField word) &&& packWord op len := by rw [packWord_fields]
    _ = packWord (opField word &&& op) (lenField word &&& len) := BitVec.and_append

/-- An UPDATE's word is its byte count. -/
theorem toNat_packWord_zero (len : BitVec 30) : (packWord 0b00 len).toNat = len.toNat := by
  have hop : (0b00 : BitVec 2).toNat = 0 := rfl
  rw [packWord, BitVec.toNat_append, hop, Nat.zero_shiftLeft, Nat.zero_or]

/-! ### What a word decodes to -/

/-- The three kinds of 30_encoding.md R110, one by one. -/
theorem illegalWord_iff_kinds (word : BitVec 32) :
    illegalWord word = true ↔
      opField word = 0b11 ∨ (opField word = 0b01 ∧ lenField word ≠ 0) ∨ (opField word = 0b10 ∧ lenField word ≠ 0) := by
  rw [illegalWord_iff]
  rcases opField_values word with hop | hop | hop | hop <;> simp [hop]

theorem decode_of_update {word : BitVec 32} (hop : opField word = 0b00) : decode word = .update (lenField word) :=
  if_pos hop

theorem decode_of_finish {word : BitVec 32} (hop : opField word = 0b01) (hlen : lenField word = 0) :
    decode word = .finish := by
  simp [decode, hop, hlen]

theorem decode_of_get {word : BitVec 32} (hop : opField word = 0b10) (hlen : lenField word = 0) :
    decode word = .get := by
  simp [decode, hop, hlen]

theorem decode_of_illegalWord {word : BitVec 32} (h : illegalWord word = true) : decode word = .illegal word := by
  obtain ⟨hop, hreserved | hlen⟩ := (illegalWord_iff word).mp h
  · simp [decode, hreserved]
  · rw [decode, if_neg hop, if_neg (fun h => hlen h.2), if_neg (fun h => hlen h.2)]

/-- Every word falls under one of the four commands (30_encoding.md R109). -/
theorem decode_cases (word : BitVec 32) :
    (opField word = 0b00 ∧ decode word = .update (lenField word)) ∨
    (opField word = 0b01 ∧ lenField word = 0 ∧ decode word = .finish) ∨
    (opField word = 0b10 ∧ lenField word = 0 ∧ decode word = .get) ∨
    (illegalWord word = true ∧ decode word = .illegal word) := by
  by_cases hill : illegalWord word = true
  · exact .inr (.inr (.inr ⟨hill, decode_of_illegalWord hill⟩))
  · rw [illegalWord_iff] at hill
    rcases opField_values word with hop | hop | hop | hop
    · exact .inl ⟨hop, decode_of_update hop⟩
    · have hlen : lenField word = 0 := by simpa [hop] using hill
      exact .inr (.inl ⟨hop, hlen, decode_of_finish hop hlen⟩)
    · have hlen : lenField word = 0 := by simpa [hop] using hill
      exact .inr (.inr (.inl ⟨hop, hlen, decode_of_get hop hlen⟩))
    · simp [hop] at hill

theorem decode_wf (word : BitVec 32) : (decode word).wf = true := by
  rcases decode_cases word with ⟨-, h⟩ | ⟨-, -, h⟩ | ⟨-, -, h⟩ | ⟨hill, h⟩ <;> rw [h]
  · rfl
  · rfl
  · rfl
  · exact hill

/-- The words that decode to ILLEGAL are those that 30_encoding.md R110 lists. -/
theorem decode_eq_illegal_iff {word : BitVec 32} : decode word = .illegal word ↔ illegalWord word = true := by
  refine ⟨fun h => ?_, decode_of_illegalWord⟩
  have hwf := decode_wf word
  rwa [h] at hwf

/-! ### Encoding and decoding -/

theorem decode_encode {i : Instr} (h : i.wf = true) : decode (encode i) = i := by
  cases i with
  | update len => rw [encode, decode_of_update (opField_packWord _ _), lenField_packWord]
  | finish => exact decode_of_finish (opField_packWord _ _) (lenField_packWord _ _)
  | get => exact decode_of_get (opField_packWord _ _) (lenField_packWord _ _)
  | illegal word => exact decode_of_illegalWord h

theorem encode_decode (word : BitVec 32) : encode (decode word) = word := by
  rcases decode_cases word with ⟨hop, h⟩ | ⟨hop, hlen, h⟩ | ⟨hop, hlen, h⟩ | ⟨-, h⟩ <;> rw [h, encode]
  · exact (eq_packWord_iff.mpr ⟨hop, rfl⟩).symm
  · exact (eq_packWord_iff.mpr ⟨hop, hlen⟩).symm
  · exact (eq_packWord_iff.mpr ⟨hop, hlen⟩).symm

/-- The four bytes of a word, joined again, are the word. -/
theorem wordOfBytes_extractLsb' (word : BitVec 32) :
    wordOfBytes (word.extractLsb' 24 8) (word.extractLsb' 16 8) (word.extractLsb' 8 8) (word.extractLsb' 0 8) =
      word := by
  have hhigh : word.extractLsb' 24 8 ++ word.extractLsb' 16 8 = word.extractLsb' 16 16 :=
    BitVec.extractLsb'_append_extractLsb'_eq_extractLsb' rfl
  have hupper : word.extractLsb' 16 16 ++ word.extractLsb' 8 8 = word.extractLsb' 8 24 :=
    BitVec.extractLsb'_append_extractLsb'_eq_extractLsb' rfl
  have hall : word.extractLsb' 8 24 ++ word.extractLsb' 0 8 = word.extractLsb' 0 32 :=
    BitVec.extractLsb'_append_extractLsb'_eq_extractLsb' rfl
  rw [wordOfBytes, hhigh, hupper, hall, BitVec.extractLsb'_eq_self]

theorem decodeBytes_encodeBytes_append (i : Instr) (rest : List Byte) :
    decodeBytes (encodeBytes i ++ rest) = .ok (decode (encode i), rest) := by
  show Except.ok (decode (wordOfBytes _ _ _ _), rest) = _
  rw [wordOfBytes_extractLsb']

/-- Settles O6: row by row of the opcode map, and the four bytes of a word joined again. -/
theorem decodeEncodeRoundTrip : Obligations.DecodeEncodeRoundTrip := by
  intro i hwf
  refine ⟨decode_encode hwf, fun rest => ?_⟩
  rw [decodeBytes_encodeBytes_append, decode_encode hwf]

/-- Settles O7: encoding is a two-sided inverse of decoding. -/
theorem everyWordIsOneCommand : Obligations.EveryWordIsOneCommand := by
  intro word
  refine ⟨decode_wf word, encode_decode word, fun i hwf henc => ?_⟩
  rw [← henc, decode_encode hwf]

/-! ### The rows of the opcode map -/

theorem and_update_mask_eq_iff {word : BitVec 32} : word &&& 0xC0000000 = 0x00000000 ↔ opField word = 0b00 := by
  have hmask : word &&& 0xC0000000 = packWord (opField word &&& 0b11) (lenField word &&& 0) :=
    and_packWord word 0b11 0
  have hpattern : (0x00000000 : BitVec 32) = packWord 0b00 0 := by decide
  have hop : opField word &&& 0b11 = opField word := BitVec.and_allOnes
  have hlen : lenField word &&& 0 = 0 := BitVec.and_zero
  rw [hmask, hpattern, packWord_eq_iff, hop, hlen, and_iff_left rfl]

/-- A row whose mask is all ones fixes both fields. -/
theorem and_full_mask_eq_packWord_iff {word : BitVec 32} {op : BitVec 2} {len : BitVec 30} :
    word &&& 0xFFFFFFFF = packWord op len ↔ opField word = op ∧ lenField word = len := by
  have hmask : word &&& 0xFFFFFFFF = word := BitVec.and_allOnes
  rw [hmask, eq_packWord_iff]

theorem and_finish_mask_eq_iff {word : BitVec 32} :
    word &&& 0xFFFFFFFF = 0x40000000 ↔ opField word = 0b01 ∧ lenField word = 0 :=
  and_full_mask_eq_packWord_iff (op := 0b01) (len := 0)

theorem and_get_mask_eq_iff {word : BitVec 32} :
    word &&& 0xFFFFFFFF = 0x80000000 ↔ opField word = 0b10 ∧ lenField word = 0 :=
  and_full_mask_eq_packWord_iff (op := 0b10) (len := 0)

theorem find?_matches_cons (row : OpcodeRow) (rows : List OpcodeRow) (word : BitVec 32) :
    (row :: rows).find? (·.matches word) =
      if word &&& row.mask = row.pattern then some row else rows.find? (·.matches word) := by
  have hmatches : row.matches word = true ↔ word &&& row.mask = row.pattern := beq_iff_eq
  by_cases h : word &&& row.mask = row.pattern
  · rw [if_pos h]
    exact List.find?_cons_of_pos (hmatches.mpr h)
  · rw [if_neg h]
    exact List.find?_cons_of_neg (mt hmatches.mp h)

/-- The first matching row, by the fields. -/
theorem find?_opcodeMap (word : BitVec 32) :
    opcodeMap.find? (·.matches word) =
      if opField word = 0b00 then some ⟨"UPDATE", 0x00000000, 0xC0000000⟩
      else if opField word = 0b01 ∧ lenField word = 0 then some ⟨"FINISH", 0x40000000, 0xFFFFFFFF⟩
      else if opField word = 0b10 ∧ lenField word = 0 then some ⟨"GET", 0x80000000, 0xFFFFFFFF⟩
      else some ⟨"ILLEGAL", 0x00000000, 0x00000000⟩ := by
  have hlast : word &&& 0x00000000 = 0x00000000 := BitVec.and_zero
  simp only [opcodeMap, find?_matches_cons, and_update_mask_eq_iff, and_finish_mask_eq_iff, and_get_mask_eq_iff, hlast,
    if_true]

/-- Settles O8: the rows' conditions are the decoder's conditions on the fields, tried in the same order. -/
theorem firstMatchingRowDecides : Obligations.FirstMatchingRowDecides := by
  intro word
  simp only [ne_eq, and_update_mask_eq_iff, and_finish_mask_eq_iff, and_get_mask_eq_iff, find?_opcodeMap]
  refine ⟨fun hop => ?_, fun ⟨hop, hlen⟩ => ?_, fun ⟨hop, hlen⟩ => ?_, fun hupdate hfinish hget => ?_⟩
  · exact ⟨decode_of_update hop, if_pos hop⟩
  · simp [decode_of_finish hop hlen, hop, hlen]
  · simp [decode_of_get hop hlen, hop, hlen]
  · rw [decode, if_neg hupdate, if_neg hfinish, if_neg hget, if_neg hupdate, if_neg hfinish, if_neg hget]
    exact ⟨rfl, rfl⟩

end Sys2Proof
end

section
/-! Family 30_encoding.md, command listings: what an UPDATE line encodes as, and how an UPDATE of any number of bytes is
cut into lines (30_encoding.md R114, R115). -/

namespace Sys2Proof.Machine

theorem encode_update_ofNat {n : Nat} (h : n < 2 ^ 30) : encode (.update (BitVec.ofNat 30 n)) = BitVec.ofNat 32 n := by
  apply BitVec.eq_of_toNat_eq
  rw [encode, toNat_packWord_zero, BitVec.toNat_ofNat, BitVec.toNat_ofNat, Nat.mod_eq_of_lt h,
    Nat.mod_eq_of_lt (by omega)]

/-- Bytes that fit into one piece more than `splitUpdate` may cut off are split without loss. -/
theorem exists_splitUpdate_eq : ∀ (n : Nat) (bytes : List Byte), bytes.length ≤ (n + 1) * Config.maxUpdateLength →
    ∃ pieces : List (List Byte), splitUpdate n bytes = pieces.map Line.update ∧ pieces.flatten = bytes ∧
      ∀ piece ∈ pieces, piece.length ≤ Config.maxUpdateLength
  | 0, bytes, h => ⟨[bytes], rfl, by simp, by simpa using h⟩
  | n + 1, bytes, h => by
    unfold splitUpdate
    split
    · next hfits => exact ⟨[bytes], rfl, by simp, by simpa using hfits⟩
    · have hrest : (bytes.drop Config.maxUpdateLength).length ≤ (n + 1) * Config.maxUpdateLength := by
        rw [List.length_drop, Nat.sub_le_iff_le_add, ← Nat.succ_mul]
        exact h
      obtain ⟨pieces, hlines, hbytes, hshort⟩ := exists_splitUpdate_eq n _ hrest
      refine ⟨bytes.take Config.maxUpdateLength :: pieces, by rw [hlines, List.map_cons], ?_, ?_⟩
      · rw [List.flatten_cons, hbytes, List.take_append_drop]
      · exact List.forall_mem_cons.mpr ⟨List.length_take_le _ _, hshort⟩

/-- The pieces that `longUpdate` allows for are enough. -/
theorem length_le_pieces_mul (len : Nat) :
    len ≤ (len / Config.maxUpdateLength + 1) * Config.maxUpdateLength :=
  (Nat.lt_mul_of_div_lt (Nat.lt_succ_self _) (by decide)).le

/-- Settles O54: by induction on the number of pieces cut off. -/
theorem longUpdateExpands : Obligations.LongUpdateExpands := by
  refine ⟨fun bytes h => ?_, fun bytes => ?_⟩
  · rw [Line.encoding, encode_update_ofNat h]
  · obtain ⟨pieces, hlines, hbytes, hshort⟩ := exists_splitUpdate_eq _ bytes (length_le_pieces_mul bytes.length)
    exact ⟨pieces, hlines, hbytes, fun piece hp => (hshort piece hp).trans_lt (by decide)⟩

end Sys2Proof.Machine
end

section
/-! Family 30_encoding.md, the command port: an engine that waits for the host (30_encoding.md R102), and the answer to an
illegal word (30_encoding.md R110, 60_exceptions.md R254). -/

namespace Sys2Proof.Machine

variable {s : State}

/-! ### Waiting -/

/-- Where nothing is taken, every offer that stands is to be held. -/
theorem noteOffers_self (s : State) :
    noteOffers s s = { s with heldCmd := s.cmds.head?, heldBeat := s.beats.head? } := by
  simp [noteOffers, heldAfter_untaken]

theorem clockEdge_idle_of_no_command (hidle : s.phase = .idle) (hcmds : s.cmds = []) : clockEdge s = .ok s := by
  simp [clockEdge, hidle, nextCommand_eq_none.mpr (.inr hcmds)]

theorem clockEdge_data_of_no_beat (hdata : s.phase = .data) (hrem : s.rem ≠ 0) (hbeats : s.beats = []) :
    clockEdge s = .ok s := by
  have hedge : dataEdge s = .ok s := dataEdge_eq_ok.mpr (.inr (.inl ⟨hrem, hbeats, rfl⟩))
  simp [clockEdge, hdata, hedge]

theorem step_of_clockEdge_self (h : s.DutiesMet) (hnone : nextCommand s = none) (hedge : clockEdge s = .ok s) :
    step s = .next { s with heldCmd := s.cmds.head?, heldBeat := s.beats.head? } := by
  rw [step_of_nextCommand_eq_none h hnone, hedge, ← noteOffers_self]
  rfl

/-- Settles O12: in both cases the clock edge answers the state it found. -/
theorem engineWaitsForTheHost : Obligations.EngineWaitsForTheHost := by
  rintro s h (⟨hidle, hcmds⟩ | ⟨hdata, hrem, hbeats⟩)
  · exact step_of_clockEdge_self h (nextCommand_eq_none.mpr (.inr hcmds)) (clockEdge_idle_of_no_command hidle hcmds)
  · have hnone : nextCommand s = none := nextCommand_eq_none.mpr (.inl (by simp [hdata]))
    exact step_of_clockEdge_self h hnone (clockEdge_data_of_no_beat hdata hrem hbeats)

/-! ### Illegal words -/

theorem exec_illegal (word : BitVec 32) (s : State) :
    exec (.illegal word) s =
      .next { s with opl := opField word, pstat := .illegalCommand, phase := .resp } := rfl

/-- The edge that accepts a command. -/
theorem clockEdge_of_command {word : BitVec 32} {rest : List (BitVec 32)} (hidle : s.phase = .idle)
    (hcmds : s.cmds = word :: rest) : clockEdge s = .ok (acceptCommand (decode word) { s with cmds := rest }) := by
  have hnext : nextCommand s = some (decode word, { s with cmds := rest }) :=
    nextCommand_eq_some.mpr ⟨hidle, word, rest, hcmds, rfl, rfl⟩
  simp [clockEdge, hidle, hnext]

theorem State.phase_of_cmdReady (h : s.cmdReady = true) : s.phase = .idle := by
  obtain ⟨hidle, -⟩ := Bool.and_eq_true_iff.mp h
  exact of_decide_eq_true hidle

/-- A status other than OK comes with digest 0 (30_encoding.md R108). -/
theorem pendingResponse_of_error (h : s.pstat ≠ .ok) : s.pendingResponse = ⟨s.pstat.code, 0⟩ := by
  simp [State.pendingResponse, State.rspStatus, State.rspDigest, State.carriesDigest, h]

/-- Settles O38: the kinds by the fields; the command and its one edge write OPL, PSTAT and PHASE. -/
theorem illegalWordsAreAnswered : Obligations.IllegalWordsAreAnswered := by
  intro word
  refine ⟨decode_eq_illegal_iff.trans (illegalWord_iff_kinds word), fun s => ?_, fun s rest hill hready hcmds => ?_⟩
  · refine ⟨opField word, exec_illegal word s, fun t ht => ?_⟩
    rw [exec_illegal] at ht
    cases ht
    exact pendingResponse_of_error (by simp)
  · refine ⟨opField word, ?_⟩
    rw [clockEdge_of_command (State.phase_of_cmdReady hready) hcmds, hill]
    rfl

end Sys2Proof.Machine
end

section
/-! Family 40_update.md, the beats of an UPDATE: what taking them does to REM and the data channel, a byte absorbed
(40_update.md R140), and an UPDATE that discards its beats (40_update.md R147). -/

namespace Sys2Proof.Machine

variable {s t : State}

/-! ### ABSORB -/

theorem absorb_beats {b : Byte} (ht : absorb b s = .ok t) : t.beats = s.beats := by
  obtain ⟨-, rfl⟩ := absorb_eq_ok.mp ht
  simp [compressIfFull_frame]

theorem absorb_count {b : Byte} (ht : absorb b s = .ok t) : t.count = s.count + 8 := by
  obtain ⟨-, rfl⟩ := absorb_eq_ok.mp ht
  simp [compressIfFull_frame]

theorem absorb_buf {b : Byte} (ht : absorb b s = .ok t) : t.buf = s.buf.write s.fill.toNat b := by
  obtain ⟨-, rfl⟩ := absorb_eq_ok.mp ht
  simp [compressIfFull_frame]

/-- A byte that does not fill the block starts no block compression. -/
theorem absorb_eq_ok_of_room {b : Byte} (h : s.fill.toNat < 63) :
    absorb b s = .ok t ↔
      t = { s with buf := s.buf.write s.fill.toNat b, fill := s.fill + 1, count := s.count + 8 } := by
  have hfill : (s.fill + 1).toNat ≠ 64 := by
    rw [fill_succ (by omega)]
    omega
  rw [absorb_eq_ok, compressIfFull_of_not_full hfill, and_iff_right (by omega)]

/-- The byte that fills the block starts its compression at once. -/
theorem absorb_eq_ok_of_last {b : Byte} (h : s.fill.toNat = 63) :
    absorb b s = .ok t ↔
      t = compress .data { s with buf := s.buf.write s.fill.toNat b, fill := s.fill + 1, count := s.count + 8 } := by
  have hfill : (s.fill + 1).toNat = 64 := by rw [fill_succ (by omega), h]
  rw [absorb_eq_ok, compressIfFull_of_full hfill, and_iff_right (by omega)]

/-- FILL goes once around the block (40_update.md R140). -/
theorem absorb_fill {b : Byte} (ht : absorb b s = .ok t) :
    s.fill.toNat < 64 ∧ t.fill.toNat = (s.fill.toNat + 1) % 64 := by
  have hlt := (absorb_eq_ok.mp ht).1
  refine ⟨hlt, ?_⟩
  by_cases hlast : s.fill.toNat = 63
  · rw [(absorb_eq_ok_of_last hlast).mp ht, compress_fill, hlast]
    rfl
  · have hroom : s.fill.toNat < 63 := by omega
    rw [(absorb_eq_ok_of_room hroom).mp ht, Nat.mod_eq_of_lt (by omega)]
    exact fill_succ hlt

/-- A block compression reads the 64 bytes of BUF (42_compression.md R217). -/
theorem compressWords_blockWords (h : Words5) (buf : Memory) :
    compressWords h buf.blockWords = compressBytes h (buf.readBytes 0 64) := by
  rw [Memory.blockWords_eq_wordsOfBytes]
  rfl

/-- Settles O26: by whether the byte fills the block. -/
theorem absorbTakesOneByte : Obligations.AbsorbTakesOneByte := by
  intro s b hwf hlt
  obtain ⟨t, ht⟩ := exists_absorb_eq_ok b hlt
  obtain ⟨hrem, hdrop⟩ := absorb_rem_drop ht
  have hframe : t.fin = s.fin ∧ t.phase = s.phase ∧ t.opl = s.opl ∧ t.pstat = s.pstat ∧ t.cmds = s.cmds ∧
      t.responses = s.responses := by
    obtain ⟨-, rfl⟩ := absorb_eq_ok.mp ht
    simp [compressIfFull_frame]
  obtain ⟨hfin, hphase, hopl, hpstat, hcmds, hresponses⟩ := hframe
  refine ⟨t, ht, fun a => ?_, absorb_count ht, hfin, fun hroom => ?_, fun hlast => ?_, hphase, hopl, hrem, hdrop,
    hpstat, hcmds, absorb_beats ht, hresponses⟩
  · rw [absorb_buf ht, Memory.read_write hwf]
  · rw [(absorb_eq_ok_of_room hroom).mp ht]
    exact ⟨fill_succ hlt, rfl, rfl, rfl, rfl⟩
  · rw [(absorb_eq_ok_of_last hlast).mp ht]
    refine ⟨rfl, ?_⟩
    rw [compress_h, hlast, compressWords_blockWords]
    exact congrArg (compressBytes s.h) (Memory.readBytes_write_end hwf 63 b)

/-! ### The beats taken -/

/-- Each beat taken counts REM down (40_update.md R150 step 3). -/
theorem toNat_eq_toNat_sub_one_add_one {rem : BitVec 30} (h : rem ≠ 0) : rem.toNat = (rem - 1).toNat + 1 := by
  bv_omega

/-- An UPDATE takes the beats it owes, as far as they are offered, and leaves the rest. -/
theorem collectBeats_taken : ∀ {bs : List Byte} {s t : State}, s.beats = bs → collectBeats bs s = .ok t →
    t.beats = bs.drop s.rem.toNat ∧ t.rem.toNat = s.rem.toNat - bs.length
  | [], s, t, hbeats, ht => by
    cases ht
    exact ⟨by simp [hbeats], rfl⟩
  | b :: rest, s, t, hbeats, ht => by
    obtain ⟨hrem, rfl⟩ | ⟨hrem, -, ht⟩ | ⟨hrem, -, u, hu, ht⟩ := collectBeats_cons_cases ht
    · simp [hrem, hbeats]
    · obtain ⟨htbeats, htrem⟩ := collectBeats_taken (s := takeBeat rest s) rfl ht
      rw [toNat_eq_toNat_sub_one_add_one hrem, List.drop_succ_cons, List.length_cons, Nat.add_sub_add_right]
      exact ⟨htbeats, htrem⟩
    · obtain ⟨htbeats, htrem⟩ := collectBeats_taken (absorb_beats hu) ht
      rw [(absorb_rem_drop hu).1] at htbeats htrem
      rw [toNat_eq_toNat_sub_one_add_one hrem, List.drop_succ_cons, List.length_cons, Nat.add_sub_add_right]
      exact ⟨htbeats, htrem⟩

/-- What an UPDATE of `len` bytes leaves in the registers and on the channels, whatever its bytes are. -/
structure UpdateEnds (len : BitVec 30) (s t : State) : Prop where
  fin : t.fin = s.fin
  opl : t.opl = 0b00
  drop : t.drop = s.fin
  pstat : t.pstat = updateStatus s.fin
  rem : t.rem.toNat = len.toNat - s.beats.length
  phase : t.phase = if t.rem = 0 then .resp else .data
  beats : t.beats = s.beats.drop len.toNat
  padStep : t.padStep = s.padStep
  started : t.started = s.started
  rst : t.rst = s.rst
  cmds : t.cmds = s.cmds
  rspReady : t.rspReady = s.rspReady
  responses : t.responses = s.responses
  heldCmd : t.heldCmd = s.heldCmd
  heldBeat : t.heldBeat = s.heldBeat

theorem exec_update_ends {len : BitVec 30} (ht : exec (.update len) s = .next t) : UpdateEnds len s t := by
  obtain ⟨u, hu, rfl⟩ := execUpdate_eq_next.mp ht
  obtain ⟨hbeats, hrem⟩ := collectBeats_taken (s := latchUpdate len s) rfl hu
  obtain ⟨hfin, -, hopl, hdrop, hpstat, hpad, hstarted, hrst, hcmds, hready, hresponses, hcmd, hbeat⟩ :=
    collectBeats_frame hu
  exact ⟨hfin, hopl, hdrop, hpstat, hrem, rfl, hbeats, hpad, hstarted, hrst, hcmds, hready, hresponses, hcmd, hbeat⟩

theorem UpdateEnds.rem_eq_zero {len : BitVec 30} (h : UpdateEnds len s t) (hbeats : len.toNat ≤ s.beats.length) :
    t.rem = 0 :=
  BitVec.eq_of_toNat_eq (h.rem.trans (Nat.sub_eq_zero_of_le hbeats))

theorem UpdateEnds.phase_resp {len : BitVec 30} (h : UpdateEnds len s t) (hbeats : len.toNat ≤ s.beats.length) :
    t.phase = .resp :=
  h.phase.trans (if_pos (h.rem_eq_zero hbeats))

theorem UpdateEnds.phase_data {len : BitVec 30} (h : UpdateEnds len s t) (hbeats : s.beats.length < len.toNat) :
    t.phase = .data := by
  refine h.phase.trans (if_neg fun hrem => ?_)
  have hzero : 0 = len.toNat - s.beats.length := by simpa [hrem] using h.rem
  omega

/-- The response to an UPDATE has digest 0 (40_update.md R145, R147). -/
theorem UpdateEnds.pendingResponse {len : BitVec 30} (h : UpdateEnds len s t) :
    t.pendingResponse = ⟨(updateStatus s.fin).code, 0⟩ := by
  simp [State.pendingResponse, State.rspStatus, State.rspDigest, State.carriesDigest, h.opl, h.pstat]

/-! ### Discarding the beats -/

/-- DRAIN writes REM and takes beats, and nothing else. -/
theorem collectBeats_of_drop : ∀ (bs : List Byte) {s : State}, s.drop = true →
    ∃ beats rem, collectBeats bs s = .ok { s with beats := beats, rem := rem }
  | [], s, _ => ⟨s.beats, s.rem, rfl⟩
  | b :: rest, s, hdrop => by
    by_cases hrem : s.rem = 0
    · exact ⟨s.beats, s.rem, collectBeats_none_owed hrem⟩
    · obtain ⟨beats, rem, h⟩ := collectBeats_of_drop rest (s := takeBeat rest s) hdrop
      exact ⟨beats, rem, (collectBeats_dropped hrem hdrop).trans h⟩

/-- A refused UPDATE, with the beats it still owes, as one update of the state. -/
theorem exec_update_of_fin {len rem : BitVec 30} (hfin : s.fin = true)
    (hrem : rem.toNat = len.toNat - s.beats.length) :
    exec (.update len) s = .next { s with
      opl := 0b00, rem := rem, drop := true, pstat := .alreadyFinalized,
      phase := if rem = 0 then .resp else .data, beats := s.beats.drop len.toNat } := by
  obtain ⟨beats, rem', hcollect⟩ := collectBeats_of_drop s.beats (s := latchUpdate len s) hfin
  have hexec := execUpdate_eq_next.mpr ⟨_, hcollect, rfl⟩
  have hends := exec_update_ends (t := dataOrResp { latchUpdate len s with beats := beats, rem := rem' }) hexec
  have hbeats : beats = s.beats.drop len.toNat := hends.beats
  have hrem' : rem' = rem := BitVec.eq_of_toNat_eq (hends.rem.trans hrem.symm)
  subst hbeats hrem'
  refine hexec.trans ?_
  simp only [dataOrResp, latchUpdate, hfin, updateStatus, if_true]

/-- Settles O30: no beat is owed once all are discarded. -/
theorem refusedUpdateDrainsItsBeats : Obligations.RefusedUpdateDrainsItsBeats := by
  intro s len hfin hbeats
  refine ⟨exec_update_of_fin (rem := 0) hfin (Nat.sub_eq_zero_of_le hbeats).symm, fun t ht => ?_⟩
  rw [(exec_update_ends ht).pendingResponse, hfin]
  rfl

/-- Settles O31: beats are owed once all offered ones are discarded. -/
theorem refusedUpdateWaitsForItsBeats : Obligations.RefusedUpdateWaitsForItsBeats := by
  intro s len hfin hbeats
  have hrem : (len - BitVec.ofNat 30 s.beats.length).toNat = len.toNat - s.beats.length := by bv_omega
  have howed : len - BitVec.ofNat 30 s.beats.length ≠ 0 := by bv_omega
  rw [exec_update_of_fin hfin hrem, if_neg howed, List.drop_of_length_le hbeats.le]

/-- Settles O32: no beat is owed from the start. -/
theorem emptyUpdateChangesNothing : Obligations.EmptyUpdateChangesNothing := by
  intro s
  have hexec : exec (.update 0) s = .next (dataOrResp (latchUpdate 0 s)) :=
    execUpdate_eq_next.mpr ⟨_, collectBeats_none_owed rfl, rfl⟩
  refine ⟨fun hfin => ?_, fun hfin => ?_⟩ <;> rw [hexec] <;>
    simp [dataOrResp, latchUpdate, hfin, updateStatus]

end Sys2Proof.Machine
end

section
/-! Family 40_update.md, the bytes of an UPDATE: the blocks it compresses and what is left in BUF (40_update.md R140 to
R145), and the addresses its beats are stored at (20_memory.md R74). -/

namespace Sys2Proof.Machine

variable {h₀ : Words5} {c₀ : BitVec 64} {m : List Byte} {s t : State}

/-! ### Blocks and remainder -/

/-- The bytes in BUF are the first ones absorbed from the state's own H on. -/
theorem absorbed_readBytes (s : State) (h : s.fill.toNat < 64) :
    Absorbed s.h (s.count - BitVec.ofNat 64 (8 * s.fill.toNat)) (s.buf.readBytes 0 s.fill.toNat) s := by
  have hblocks : (s.buf.readBytes 0 s.fill.toNat).length / 64 = 0 := by
    rw [Memory.length_readBytes, Nat.div_eq_of_lt h]
  refine ⟨?_, ?_, ?_, ?_⟩
  · rw [Memory.length_readBytes, Nat.mod_eq_of_lt h]
  · rw [Memory.length_readBytes, BitVec.sub_add_cancel]
  · rw [hblocks, Nat.mul_zero, List.drop_zero]
  · rw [hblocks]
    rfl

/-- UPDATE answers, and absorbs as many of the beats offered as it owes. -/
theorem Absorbed.exec_update (h : Absorbed h₀ c₀ m s) (hwf : s.buf.wf = true) (hfin : s.fin = false) (len : BitVec 30) :
    ∃ t, exec (.update len) s = .next t ∧ Absorbed h₀ c₀ (m ++ s.beats.take len.toNat) t ∧ t.buf.wf = true := by
  have hlatched : Absorbed h₀ c₀ m (latchUpdate len s) := { h with }
  obtain ⟨u, hu, habsorbed, huwf⟩ := hlatched.collectBeats s.beats hwf hfin
  exact ⟨dataOrResp u, execUpdate_eq_next.mpr ⟨u, hu, rfl⟩, { habsorbed with }, huwf⟩

/-- COUNT grows by the bits of the bytes absorbed. -/
theorem Absorbed.count_append {x : List Byte} (h : Absorbed h₀ c₀ m s) (ht : Absorbed h₀ c₀ (m ++ x) t) :
    t.count = s.count + BitVec.ofNat 64 (8 * x.length) := by
  rw [ht.count, h.count, List.length_append, Nat.mul_add, BitVec.ofNat_add, BitVec.add_assoc]

/-- Settles O27: the bytes in BUF and the beats are absorbed from H on. -/
theorem updateAbsorbsItsBytes : Obligations.UpdateAbsorbsItsBytes := by
  rintro s len bytes hwf hfin hfill hbeats rfl
  have hself := absorbed_readBytes s hfill
  obtain ⟨t, ht, habsorbed, -⟩ := hself.exec_update hwf hfin len
  have hends := exec_update_ends ht
  have hcount := hself.count_append habsorbed
  rw [List.length_take_of_le hbeats] at hcount
  have hresponse := hends.pendingResponse
  rw [hfin] at hresponse
  exact ⟨t, ht, habsorbed.h, habsorbed.fill, habsorbed.buf, hcount, hends.fin.trans hfin, hends.beats,
    hends.rem_eq_zero hbeats, hends.phase_resp hbeats, hresponse⟩

/-- Settles O29: all beats offered are absorbed, and more are owed. -/
theorem updateWaitsForItsBeats : Obligations.UpdateWaitsForItsBeats := by
  rintro s len bytes hwf hfin hfill hbeats rfl
  have hself := absorbed_readBytes s hfill
  obtain ⟨t, ht, habsorbed, -⟩ := hself.exec_update hwf hfin len
  have hends := exec_update_ends ht
  rw [List.take_of_length_le hbeats.le] at habsorbed
  exact ⟨t, ht, hends.phase_data hbeats, hends.rem, hends.beats.trans (List.drop_of_length_le hbeats.le),
    hends.fin.trans hfin, habsorbed.h, habsorbed.fill, habsorbed.buf, hself.count_append habsorbed⟩

/-! ### Where the beats are stored -/

/-- Bytes stored one after the other, around the buffer from an address on (40_update.md R140, 20_memory.md R74). -/
def Memory.storeAround : Memory → Nat → List Byte → Memory
  | buf, _, [] => buf
  | buf, a, b :: bs => Memory.storeAround (buf.write (a % 64) b) (a + 1) bs

/-- Only the address modulo 64 matters. -/
theorem Memory.storeAround_mod (a : Nat) : ∀ (bs : List Byte) (buf : Memory),
    buf.storeAround (a % 64) bs = buf.storeAround a bs := by
  intro bs
  induction bs generalizing a with
  | nil => exact fun _ => rfl
  | cons b bs ih =>
    intro buf
    rw [storeAround, storeAround, Nat.mod_mod, ← ih, ← ih (a + 1), Nat.mod_add_mod]

/-- A byte at whose address nothing is stored keeps its value. -/
theorem Memory.read_storeAround_of_untouched : ∀ {bs : List Byte} {buf : Memory} {n a : Nat}, buf.wf = true →
    (∀ j, j < bs.length → (n + j) % 64 ≠ a) → (buf.storeAround n bs).read a = buf.read a
  | [], _, _, _, _, _ => rfl
  | b :: bs, buf, n, a, hwf, h => by
    have hfirst : n % 64 ≠ a := h 0 (by simp)
    have hrest : ∀ j, j < bs.length → (n + 1 + j) % 64 ≠ a := fun j hj => by
      have := h (j + 1) (by simpa using hj)
      rwa [Nat.add_right_comm, Nat.add_assoc]
    rw [storeAround, read_storeAround_of_untouched (wf_write hwf (Nat.mod_lt _ (by decide))) hrest, read_write hwf,
      if_neg hfirst.symm]

/-- The last byte stored at an address is what stands there. -/
theorem Memory.read_storeAround_of_last : ∀ {bs : List Byte} {buf : Memory} {n j : Nat}, buf.wf = true →
    j < bs.length → (∀ j', j < j' → j' < bs.length → (n + j') % 64 ≠ (n + j) % 64) →
    (buf.storeAround n bs).read ((n + j) % 64) = bs.getD j 0
  | b :: bs, buf, n, 0, hwf, _, h => by
    have hlater : ∀ j, j < bs.length → (n + 1 + j) % 64 ≠ n % 64 := fun j hj => by
      have := h (j + 1) (by omega) (by simpa using hj)
      rwa [Nat.add_zero, ← Nat.add_assoc, Nat.add_right_comm] at this
    show ((buf.write (n % 64) b).storeAround (n + 1) bs).read (n % 64) = b
    rw [read_storeAround_of_untouched (wf_write hwf (Nat.mod_lt _ (by decide))) hlater, read_write hwf, if_pos rfl]
  | b :: bs, buf, n, j + 1, hwf, hj, h => by
    have hlater : ∀ j', j < j' → j' < bs.length → (n + 1 + j') % 64 ≠ (n + 1 + j) % 64 := fun j' hlt hj' => by
      have := h (j' + 1) (by omega) (by simpa using hj')
      rwa [← Nat.add_assoc, ← Nat.add_assoc, Nat.add_right_comm n j', Nat.add_right_comm n j] at this
    rw [storeAround, ← Nat.add_assoc, Nat.add_right_comm, List.getD_cons_succ]
    exact read_storeAround_of_last (wf_write hwf (Nat.mod_lt _ (by decide))) (by simpa using hj) hlater

/-- What a block compression writes besides FILL and the count of free values. -/
def State.compressed (s : State) : Words5 × Words5 × Vector Word 16 × BitVec 7 × Ret × CompStep :=
  (s.h, s.d, s.q, s.t, s.ret, s.compStep)

/-- Absorbing stores the bytes taken around the buffer, counts them, and compresses nothing where no block fills. -/
theorem collectBeats_stores : ∀ {bs : List Byte} {s t : State}, s.drop = false → collectBeats bs s = .ok t →
    t.buf = s.buf.storeAround s.fill.toNat (bs.take s.rem.toNat) ∧
    t.count = s.count + BitVec.ofNat 64 (8 * (bs.take s.rem.toNat).length) ∧
    (s.fill.toNat + (bs.take s.rem.toNat).length < 64 → t.compressed = s.compressed)
  | [], s, t, _, ht => by
    cases ht
    simp [Memory.storeAround]
  | b :: rest, s, t, hdrop, ht => by
    obtain ⟨hrem, rfl⟩ | ⟨-, hdropped, -⟩ | ⟨hrem, -, u, hu, ht⟩ := collectBeats_cons_cases ht
    · simp [hrem, Memory.storeAround]
    · exact absurd hdropped (by simp [hdrop])
    · obtain ⟨hurem, hudrop⟩ := absorb_rem_drop hu
      obtain ⟨hlt, hfill⟩ := absorb_fill hu
      obtain ⟨hbuf, hcount, hcompressed⟩ := collectBeats_stores (hudrop.trans hdrop) ht
      rw [hurem, takeBeat_rem] at hbuf hcount hcompressed
      rw [takeBeat_fill] at hlt hfill
      rw [toNat_eq_toNat_sub_one_add_one hrem, List.take_succ_cons, List.length_cons]
      refine ⟨?_, ?_, fun hroom => ?_⟩
      · rw [hbuf, absorb_buf hu, hfill, Memory.storeAround_mod, Memory.storeAround, Nat.mod_eq_of_lt hlt]
        rfl
      · rw [hcount, absorb_count hu, takeBeat_count, BitVec.add_assoc, Nat.mul_succ, Nat.add_comm, BitVec.ofNat_add]
        rfl
      · rw [hcompressed (by omega), (absorb_eq_ok_of_room (by rw [takeBeat_fill]; omega)).mp hu]
        rfl

/-- Settles O28: the registers by `exec_update_ends`, the rest by what storing the beats does. -/
theorem updateFrame : Obligations.UpdateFrame := by
  rintro s t len taken hwf hfin rfl ht
  have hends := exec_update_ends ht
  obtain ⟨u, hu, rfl⟩ := execUpdate_eq_next.mp ht
  obtain ⟨hbuf, hcount, hcompressed⟩ := collectBeats_stores (s := latchUpdate len s) hfin hu
  rw [latchUpdate_rem, List.length_take] at hcount hcompressed
  rw [latchUpdate_buf, latchUpdate_fill, latchUpdate_rem] at hbuf
  have hrem : u.rem = len - BitVec.ofNat 30 (min len.toNat s.beats.length) := by
    have := hends.rem
    rw [dataOrResp_rem] at this
    bv_omega
  have hbeats : u.beats = s.beats.drop (min len.toNat s.beats.length) := by
    refine hends.beats.trans ?_
    rcases le_total len.toNat s.beats.length with hle | hle
    · rw [min_eq_left hle]
    · rw [min_eq_right hle, List.drop_of_length_le hle, List.drop_length]
  refine ⟨hends.fin, hends.padStep, hends.started, hends.rst, hends.cmds, hends.rspReady, hends.responses,
    hends.heldCmd, hends.heldBeat, hends.opl, hends.drop.trans hfin, hends.pstat.trans (by rw [hfin]; rfl), hrem, hbeats,
    hcount, fun a huntouched => ?_, fun j hj hlast => ?_, fun hroom => ?_⟩
  · rw [dataOrResp_buf, hbuf]
    exact Memory.read_storeAround_of_untouched hwf (by simpa using huntouched)
  · have hget : (s.beats.take len.toNat).getD j 0 = s.beats.getD j 0 := by
      rw [List.getD_eq_getElem?_getD, List.getD_eq_getElem?_getD, List.getElem?_take_of_lt (by omega)]
    rw [dataOrResp_buf, hbuf, ← hget]
    exact Memory.read_storeAround_of_last hwf (by simpa using hj) (by simpa using hlast)
  · simpa [State.compressed] using hcompressed hroom

end Sys2Proof.Machine
end

section
/-! Family 40_update.md, chunking: FINISH after an UPDATE answers the digest of the bytes absorbed (41_finalize.md R170,
R183), however they were cut into UPDATEs (40_update.md R146). -/

namespace Sys2Proof.Machine

variable {h₀ : Words5} {c₀ : BitVec 64} {m : List Byte} {s t : State}

/-! ### The padded blocks in BUF -/

namespace Memory

theorem readBytes_add (buf : Memory) (a j k : Nat) :
    buf.readBytes a (j + k) = buf.readBytes a j ++ buf.readBytes (a + j) k := by
  simp only [readBytes, List.range_add, List.map_append, List.map_map, Function.comp_def, Nat.add_assoc]

/-- Bytes that all read as one value. -/
theorem readBytes_eq_replicate {buf : Memory} {a n : Nat} {b : Byte} (h : ∀ k, k < n → buf.read (a + k) = b) :
    buf.readBytes a n = List.replicate n b := by
  refine List.eq_replicate_iff.mpr ⟨length_readBytes buf a n, fun x hx => ?_⟩
  obtain ⟨k, hk, rfl⟩ := List.mem_map.mp hx
  exact h k (List.mem_range.mp hk)

/-- The block once 0x80 and zeros stand behind its first n bytes (41_finalize.md R170). -/
theorem readBytes_marked {buf : Memory} (hwf : buf.wf = true) {n : Nat} (hn : n < 64) :
    ((buf.write n 0x80).zeroFill (n + 1) 64).readBytes 0 64 =
      buf.readBytes 0 n ++ 0x80 :: List.replicate (63 - n) 0 := by
  have hwf' : (buf.write n 0x80).wf = true := wf_write hwf hn
  have hread (a : Nat) := read_zeroFill (a := n + 1) (b := 64) a hwf' hn le_rfl
  have hsplit : (64 : Nat) = n + 1 + (63 - n) := by omega
  have hfirst : ((buf.write n 0x80).zeroFill (n + 1) 64).readBytes 0 (n + 1) = buf.readBytes 0 n ++ [0x80] := by
    rw [← readBytes_write_end hwf]
    refine readBytes_congr fun k hk => ?_
    rw [hread, if_neg (by omega)]
  have hzeros : ((buf.write n 0x80).zeroFill (n + 1) 64).readBytes (0 + (n + 1)) (63 - n) = List.replicate (63 - n) 0 :=
    readBytes_eq_replicate fun k hk => by rw [hread, if_pos (by omega)]
  calc ((buf.write n 0x80).zeroFill (n + 1) 64).readBytes 0 64
      = ((buf.write n 0x80).zeroFill (n + 1) 64).readBytes 0 (n + 1 + (63 - n)) := by rw [← hsplit]
    _ = buf.readBytes 0 n ++ [0x80] ++ List.replicate (63 - n) 0 := by rw [readBytes_add, hfirst, hzeros]
    _ = buf.readBytes 0 n ++ 0x80 :: List.replicate (63 - n) 0 := by rw [List.append_assoc, List.singleton_append]

/-- The block once the length field stands in its last eight bytes. -/
theorem readBytes_writeLength {buf : Memory} (hwf : buf.wf = true) (count : BitVec 64) :
    (buf.writeLength count).readBytes 0 64 = buf.readBytes 0 56 ++ be64bytes count := by
  have hfirst : (buf.writeLength count).readBytes 0 56 = buf.readBytes 0 56 :=
    readBytes_congr fun k hk => by rw [read_writeLength _ hwf, if_neg (by omega)]
  have hlast : (buf.writeLength count).readBytes (0 + 56) 8 = be64bytes count := by
    refine List.ext_getElem (length_readBytes _ _ _) fun k hk hk' => ?_
    have hk8 : k < 8 := hk'
    rw [getElem_readBytes, read_writeLength _ hwf, if_pos (by omega), Nat.zero_add, Nat.add_sub_cancel_left,
      List.getD_eq_getElem _ _ hk']
  rw [← hfirst, ← hlast]
  exact readBytes_add _ 0 56 8

theorem readBytes_take {buf : Memory} {a j n : Nat} (h : j ≤ n) : (buf.readBytes a n).take j = buf.readBytes a j := by
  obtain ⟨k, rfl⟩ := Nat.exists_eq_add_of_le h
  rw [readBytes_add, List.take_left' (length_readBytes _ _ _)]

/-- The block of a FINISH that has room for the length field (41_finalize.md R170). -/
theorem readBytes_marked_writeLength {buf : Memory} (hwf : buf.wf = true) {n : Nat} (hn : n ≤ 55) (count : BitVec 64) :
    (((buf.write n 0x80).zeroFill (n + 1) 64).writeLength count).readBytes 0 64 =
      buf.readBytes 0 n ++ 0x80 :: List.replicate (55 - n) 0 ++ be64bytes count := by
  have hzeros : List.replicate (63 - n) (0 : Byte) = List.replicate (55 - n) 0 ++ List.replicate 8 0 := by
    rw [List.replicate_append_replicate]
    congr 1
    omega
  have hwf' := wf_zeroFill (a := n + 1) (b := 64) (wf_write (v := 0x80) hwf (a := n) (by omega)) (by omega) le_rfl
  rw [readBytes_writeLength hwf', ← readBytes_take (show 56 ≤ 64 by decide), readBytes_marked hwf (by omega), hzeros,
    ← List.cons_append, ← List.append_assoc]
  refine congrArg (· ++ be64bytes count) (List.take_left' ?_)
  simp
  omega

/-- The fresh block of a FINISH that has no room for the length field (41_finalize.md R170 step 3). -/
theorem readBytes_fresh_writeLength {buf : Memory} (hwf : buf.wf = true) (count : BitVec 64) :
    ((buf.zeroFill 0 56).writeLength count).readBytes 0 64 = List.replicate 56 0 ++ be64bytes count := by
  rw [readBytes_writeLength (wf_zeroFill hwf (by decide) (by decide))]
  refine congrArg (· ++ be64bytes count) (readBytes_eq_replicate fun k hk => ?_)
  rw [read_zeroFill _ hwf (by decide) (by decide), if_pos (by omega)]

end Memory

/-! ### FINISH -/

/-- PAD with room for the length field compresses one block (41_finalize.md R170, R173). -/
theorem padMessage_of_room (hwf : s.buf.wf = true) (hfill : s.fill.toNat ≤ 55) :
    ∃ t, padMessage s = .ok t ∧ t.h = compressBytes s.h
      (s.buf.readBytes 0 s.fill.toNat ++ 0x80 :: List.replicate (55 - s.fill.toNat) 0 ++ be64bytes s.count) := by
  obtain ⟨u, hu⟩ := exists_padMark_eq_ok (s := s) (by omega)
  refine ⟨_, padMessage_eq_ok.mpr ⟨u, hu, rfl⟩, ?_⟩
  obtain ⟨hlt, rfl⟩ := padMark_eq_ok.mp hu
  have hroom : (s.fill + 1).toNat ≤ 56 := by
    rw [fill_succ hlt]
    omega
  rw [padOverflow_of_room hroom, compress_h, compressWords_blockWords, padLength_buf,
    Memory.readBytes_marked_writeLength hwf hfill]
  rfl

/-- PAD without room for the length field compresses two blocks (41_finalize.md R170, R173). -/
theorem padMessage_of_no_room (hwf : s.buf.wf = true) (hfill : 56 ≤ s.fill.toNat) (hlt : s.fill.toNat < 64) :
    ∃ t, padMessage s = .ok t ∧ t.h = compressBytes
      (compressBytes s.h (s.buf.readBytes 0 s.fill.toNat ++ 0x80 :: List.replicate (63 - s.fill.toNat) 0))
      (List.replicate 56 0 ++ be64bytes s.count) := by
  obtain ⟨u, hu⟩ := exists_padMark_eq_ok hlt
  refine ⟨_, padMessage_eq_ok.mpr ⟨u, hu, rfl⟩, ?_⟩
  obtain ⟨-, rfl⟩ := padMark_eq_ok.mp hu
  have hnoroom : 56 < (s.fill + 1).toNat := by
    rw [fill_succ hlt]
    omega
  have hwf' := Memory.wf_zeroFill (a := s.fill.toNat + 1) (b := 64) (Memory.wf_write (v := 0x80) hwf hlt) hlt le_rfl
  rw [padOverflow_of_no_room hnoroom, compress_h, compressWords_blockWords, padLength_buf, padFresh_buf, compress_buf,
    Memory.readBytes_fresh_writeLength hwf', padLength_h, padFresh_h, compress_h, compressWords_blockWords,
    Memory.readBytes_marked hwf hlt]
  rfl

/-- What padding puts behind a message of `len` bytes (41_finalize.md R183). -/
def paddingOf (len : Nat) (count : BitVec 64) : List Byte :=
  0x80 :: List.replicate (paddingZeros len) 0 ++ be64bytes count

theorem paddedMessage_eq (m : List Byte) :
    paddedMessage m = m ++ paddingOf m.length (BitVec.ofNat 64 (8 * m.length)) :=
  List.append_assoc _ _ _

theorem length_paddingOf (len : Nat) (count : BitVec 64) : (paddingOf len count).length = paddingZeros len + 9 := by
  simp [paddingOf, be64bytes]

/-- The padding depends on the length in the last block only. -/
theorem paddingOf_mod (len : Nat) (count : BitVec 64) : paddingOf (len % 64) count = paddingOf len count := by
  rw [paddingOf, paddingOf, paddingZeros, paddingZeros, Nat.mod_mod]

/-- Blocks fold in two parts. -/
theorem hashBlocks_add : ∀ (j k : Nat) (h : Words5) (m : List Byte),
    hashBlocks (j + k) h m = hashBlocks k (hashBlocks j h m) (m.drop (64 * j))
  | 0, k, h, m => by rw [Nat.zero_add]; rfl
  | j + 1, k, h, m => by
    rw [Nat.add_right_comm, hashBlocks, hashBlocks_add j, List.drop_drop, Nat.mul_succ, Nat.add_comm 64]
    rfl

/-- PAD folds the bytes in BUF and their padding into H. -/
theorem padMessage_h (hwf : s.buf.wf = true) (hlt : s.fill.toNat < 64) {last : List Byte}
    (hlast : last = s.buf.readBytes 0 s.fill.toNat ++ paddingOf s.fill.toNat s.count) :
    ∃ t, padMessage s = .ok t ∧ t.h = hashBlocks (last.length / 64) s.h last := by
  have hlength : last.length = s.fill.toNat + (paddingZeros s.fill.toNat + 9) := by
    rw [hlast, List.length_append, Memory.length_readBytes, length_paddingOf]
  by_cases hroom : s.fill.toNat ≤ 55
  · have hzeros : paddingZeros s.fill.toNat = 55 - s.fill.toNat := by
      unfold paddingZeros
      omega
    obtain ⟨t, ht, hh⟩ := padMessage_of_room hwf hroom
    refine ⟨t, ht, ?_⟩
    have hone : last.length / 64 = 1 := by omega
    have hblock : last.take 64 = s.buf.readBytes 0 s.fill.toNat ++ 0x80 :: List.replicate (55 - s.fill.toNat) 0 ++
        be64bytes s.count := by
      rw [List.take_of_length_le (by omega), hlast, paddingOf, hzeros, List.append_assoc]
    rw [hone, hh, hashBlocks, hblock]
    rfl
  · have hzeros : paddingZeros s.fill.toNat = 63 - s.fill.toNat + 56 := by
      unfold paddingZeros
      omega
    obtain ⟨t, ht, hh⟩ := padMessage_of_no_room hwf (by omega) hlt
    refine ⟨t, ht, ?_⟩
    have htwo : last.length / 64 = 2 := by omega
    have hblocks : last = (s.buf.readBytes 0 s.fill.toNat ++ 0x80 :: List.replicate (63 - s.fill.toNat) 0) ++
        (List.replicate 56 0 ++ be64bytes s.count) := by
      rw [hlast, paddingOf, hzeros, ← List.replicate_append_replicate]
      simp
    have hfirst : (s.buf.readBytes 0 s.fill.toNat ++ 0x80 :: List.replicate (63 - s.fill.toNat) 0).length = 64 := by
      simp
      omega
    rw [htwo, hh, hashBlocks, hashBlocks, hashBlocks, hblocks, List.take_left' hfirst, List.drop_left' hfirst,
      List.take_of_length_le (by simp [be64bytes])]

/-- Folding the padded message ends with the blocks that PAD folds. -/
theorem Absorbed.hashBlocks_padded (h : Absorbed h₀ c₀ m s) (count : BitVec 64) {padded last : List Byte}
    (hpadded : padded = m ++ paddingOf m.length count)
    (hlast : last = s.buf.readBytes 0 s.fill.toNat ++ paddingOf s.fill.toNat count) :
    hashBlocks (last.length / 64) s.h last = hashBlocks (padded.length / 64) h₀ padded := by
  have hle : 64 * (m.length / 64) ≤ m.length := Nat.mul_div_le _ _
  have hrest : padded.drop (64 * (m.length / 64)) = last := by
    rw [hpadded, List.drop_append_of_le_length hle, hlast, h.buf, h.fill, paddingOf_mod]
  have hblocks : padded.length / 64 = m.length / 64 + last.length / 64 := by
    have hlong : m.length ≤ padded.length := by simp [hpadded]
    rw [← hrest, List.length_drop]
    omega
  have hwhole : hashBlocks (m.length / 64) h₀ padded = s.h := by rw [hpadded, hashBlocks_append _ _ hle, h.h]
  rw [hblocks, hashBlocks_add, hwhole, hrest]

theorem padOverflow_frame (s : State) :
    (padOverflow s).count = s.count ∧ (padOverflow s).fin = s.fin ∧ (padOverflow s).opl = s.opl ∧
    (padOverflow s).rem = s.rem ∧ (padOverflow s).drop = s.drop ∧ (padOverflow s).started = s.started ∧
    (padOverflow s).rst = s.rst ∧ (padOverflow s).cmds = s.cmds ∧ (padOverflow s).beats = s.beats ∧
    (padOverflow s).rspReady = s.rspReady ∧ (padOverflow s).responses = s.responses ∧
    (padOverflow s).heldCmd = s.heldCmd ∧ (padOverflow s).heldBeat = s.heldBeat := by
  unfold padOverflow
  split <;> simp

/-- What padding never writes: COUNT, FIN, the command's registers, and everything outside the engine. -/
theorem padMessage_frame (ht : padMessage s = .ok t) :
    t.count = s.count ∧ t.fin = s.fin ∧ t.opl = s.opl ∧ t.rem = s.rem ∧ t.drop = s.drop ∧ t.started = s.started ∧
    t.rst = s.rst ∧ t.cmds = s.cmds ∧ t.beats = s.beats ∧ t.rspReady = s.rspReady ∧ t.responses = s.responses ∧
    t.heldCmd = s.heldCmd ∧ t.heldBeat = s.heldBeat := by
  obtain ⟨u, hu, rfl⟩ := padMessage_eq_ok.mp ht
  obtain ⟨-, rfl⟩ := padMark_eq_ok.mp hu
  simp [padOverflow_frame]

/-- FINISH answers the digest of the bytes absorbed and their padding. -/
theorem Absorbed.exec_finish (h : Absorbed h₀ c₀ m s) (hwf : s.buf.wf = true) (hfin : s.fin = false)
    {padded : List Byte} (hpadded : padded = m ++ paddingOf m.length s.count) :
    ∃ t, exec .finish s = .next t ∧ t.phase = .resp ∧ t.responses = s.responses ∧
      t.pendingResponse = ⟨0, digestOf (hashBlocks (padded.length / 64) h₀ padded)⟩ := by
  obtain ⟨u, hu, hh⟩ := padMessage_h (s := latchOp 0b01 s) hwf h.fill_lt rfl
  obtain ⟨-, -, hopl, -, -, -, -, -, -, -, hresponses, -, -⟩ := padMessage_frame hu
  refine ⟨markFinalized u, (execFinish_eq_next hfin).mpr ⟨u, hu, rfl⟩, rfl, hresponses, ?_⟩
  have hdigest : u.h = hashBlocks (padded.length / 64) h₀ padded :=
    hh.trans (h.hashBlocks_padded s.count hpadded rfl)
  rw [← hdigest]
  simp [State.pendingResponse, State.rspStatus, State.rspDigest, State.carriesDigest, hopl, Status.code]

/-! ### Any chunking -/

theorem Absorbed.takeResponse (h : Absorbed h₀ c₀ m s) : Absorbed h₀ c₀ m (takeResponse s) := { h with }

theorem Memory.agreeBelow_of_readBytes_eq {buf buf' : Memory} {n : Nat}
    (h : buf.readBytes 0 n = buf'.readBytes 0 n) : Memory.AgreeBelow n buf buf' := by
  intro a ha
  have hget := congrArg (·[a]?) h
  simpa [Memory.readBytes, ha] using hget

/-- Settles O33: both ways the same bytes are absorbed, and FINISH answers from them alone. -/
theorem chunkingIndependence : Obligations.ChunkingIndependence := by
  intro s a b n hwf hfin hfill hsum hbeats
  have hself := absorbed_readBytes s hfill
  obtain ⟨t, ht, htabs, htwf⟩ := hself.exec_update hwf hfin a
  have htends := exec_update_ends ht
  have htfin : t.fin = false := htends.fin.trans hfin
  obtain ⟨u, hu, huabs, huwf⟩ := htabs.takeResponse.exec_update htwf htfin b
  have huends := exec_update_ends hu
  have hufin : u.fin = false := huends.fin.trans htfin
  obtain ⟨v, hv, hvabs, hvwf⟩ := hself.exec_update hwf hfin n
  have hvends := exec_update_ends hv
  have hvfin : v.fin = false := hvends.fin.trans hfin
  rw [takeResponse_beats, htends.beats, List.append_assoc, ← List.take_add, hsum] at huabs
  have hhash : u.h = v.h := huabs.h.trans hvabs.h.symm
  have hfills : u.fill = v.fill := BitVec.eq_of_toNat_eq (huabs.fill.trans hvabs.fill.symm)
  have hcounts : u.count = v.count := huabs.count.trans hvabs.count.symm
  have hbuffers : u.buf.readBytes 0 v.fill.toNat = v.buf.readBytes 0 v.fill.toNat := by
    rw [hvabs.buf, ← huabs.buf, hfills]
  have hrest : u.beats = v.beats := by
    rw [huends.beats, takeResponse_beats, htends.beats, List.drop_drop, hsum, hvends.beats]
  obtain ⟨x, hx, -, -, hxresponse⟩ := huabs.takeResponse.exec_finish huwf hufin rfl
  obtain ⟨y, hy, -, -, hyresponse⟩ := hvabs.takeResponse.exec_finish hvwf hvfin rfl
  rw [takeResponse_count, hcounts] at hxresponse
  exact ⟨t, u, v, x, y, ht, hu, hv, hhash, hfills, hcounts, hufin.trans hvfin.symm, hrest,
    Memory.agreeBelow_of_readBytes_eq hbuffers, hx, hy, hxresponse.trans hyresponse.symm⟩

/-- A command that completes is answered first. -/
theorem answers_cons {word : BitVec 32} {words : List (BitVec 32)} (ht : exec (decode word) s = .next t)
    (hphase : t.phase = .resp) (hresponses : t.responses = s.responses) :
    answers (word :: words) s = t.pendingResponse :: answers words (takeResponse t) := by
  simp [answers, answer, ht, hphase, hresponses]

theorem exec_decode_encode {i : Instr} (h : i.wf = true) (s : State) : exec (decode (encode i)) s = exec i s := by
  rw [decode_encode h]

theorem Stream.answers : ∀ (chunks : List (BitVec 30)) {m : List Byte} {s : State}, Stream m s → s.buf.wf = true →
    (chunks.map BitVec.toNat).sum ≤ s.beats.length →
    answers (chunks.map (fun len => encode (.update len)) ++ [encode .finish]) s =
      chunks.map (fun _ => ⟨0, 0⟩) ++
        [⟨0, digestOf (sha1 (m ++ s.beats.take (chunks.map BitVec.toNat).sum))⟩]
  | [], m, s, hstream, hwf, _ => by
    obtain ⟨hfin, habsorbed⟩ := stream_iff.mp hstream
    have hpadded : paddedMessage m = m ++ paddingOf m.length s.count := by rw [paddedMessage_eq, hstream.count]
    obtain ⟨t, ht, hphase, hresponses, hresponse⟩ := habsorbed.exec_finish hwf hfin hpadded
    simp only [List.map_nil, List.nil_append, List.sum_nil, List.take_zero, List.append_nil]
    rw [answers_cons ((exec_decode_encode rfl s).trans ht) hphase hresponses, hresponse]
    rfl
  | len :: chunks, m, s, hstream, hwf, hbeats => by
    obtain ⟨hfin, habsorbed⟩ := stream_iff.mp hstream
    obtain ⟨t, ht, htabsorbed, htwf⟩ := habsorbed.exec_update hwf hfin len
    have hends := exec_update_ends ht
    have hresponse := hends.pendingResponse
    rw [hfin] at hresponse
    rw [List.map_cons, List.sum_cons] at hbeats
    have hnext : Stream (m ++ s.beats.take len.toNat) (Machine.takeResponse t) :=
      stream_iff.mpr ⟨hends.fin.trans hfin, htabsorbed.takeResponse⟩
    have ih := hnext.answers chunks htwf (by
      rw [takeResponse_beats, hends.beats, List.length_drop]
      omega)
    rw [takeResponse_beats, hends.beats, List.append_assoc, ← List.take_add] at ih
    simp only [List.map_cons, List.cons_append, List.sum_cons]
    rw [answers_cons ((exec_decode_encode rfl s).trans ht) (hends.phase_resp (by omega)) hends.responses, ih, hresponse]
    rfl

/-- Settles O48: chunk by chunk the stream invariant grows, and FINISH folds the padded message. -/
theorem engineHashesTheMessage : Obligations.EngineHashesTheMessage := by
  rintro m s chunks total hstream hwf rfl hbeats
  exact hstream.answers chunks hwf hbeats

end Sys2Proof.Machine
end

section
/-! Family 40_update.md, a block compression edge by edge: the window forms the words of the schedule (42_compression.md
R202 to R204, R220), and 82 edges are COMPRESS as one operation (42_compression.md R221). -/

namespace Sys2Proof.Machine

variable {s t : State}

/-! ### Clock edges in a row -/

theorem clockEdges_succ {k : Nat} (h : clockEdge s = .ok t) : clockEdges (k + 1) s = clockEdges k t := by
  simp [clockEdges, h]

theorem clockEdges_one (s : State) : clockEdges 1 s = clockEdge s := by
  unfold clockEdges
  cases clockEdge s <;> rfl

theorem clockEdges_add : ∀ {j : Nat} (k : Nat) {s t : State}, clockEdges j s = .ok t →
    clockEdges (j + k) s = clockEdges k t
  | 0, k, s, t, h => by
    cases h
    rw [Nat.zero_add]
  | j + 1, k, s, t, h => by
    cases hedge : clockEdge s with
    | ok u =>
      rw [clockEdges_succ hedge] at h
      rw [Nat.add_right_comm, clockEdges_succ hedge, clockEdges_add k h]
    | error f =>
      rw [clockEdges, hedge] at h
      cases h

/-! ### The schedule, word by word -/

section
variable {block : List Word} (hblock : block.length = 16)
include hblock

/-- The first words of the schedule are those that fewer extensions give. -/
theorem schedule_take {k : Nat} (hk : k ≤ 64) :
    (schedule block).take (16 + k) = (scheduleExtend k block.reverse).reverse := by
  obtain ⟨newer, -, hnewer⟩ := scheduleExtend_suffix (64 - k) (scheduleExtend k block.reverse)
  have hall : schedule block = (scheduleExtend k block.reverse).reverse ++ newer.reverse := by
    rw [← List.reverse_append, ← hnewer, ← scheduleExtend_add, Nat.add_sub_cancel' hk]
    rfl
  rw [hall, List.take_left']
  rw [List.length_reverse, length_scheduleExtend, List.length_reverse, hblock]

/-- W[t] is the block's word (42_compression.md R203). -/
theorem schedule_getD_of_lt {t : Nat} (ht : t < 16) : (schedule block).getD t 0 = block.getD t 0 := by
  have hfirst : (schedule block).take 16 = block :=
    (schedule_take hblock (Nat.zero_le 64)).trans (List.reverse_reverse block)
  calc (schedule block).getD t 0
      = ((schedule block).take 16).getD t 0 := by
        rw [List.getD_eq_getElem?_getD, List.getD_eq_getElem?_getD, List.getElem?_take_of_lt ht]
    _ = block.getD t 0 := by rw [hfirst]

theorem schedule_take_succ {t : Nat} (ht : t < 80) :
    (schedule block).take (t + 1) = (schedule block).take t ++ [(schedule block).getD t 0] := by
  have hlt : t < (schedule block).length := (length_schedule hblock).symm ▸ ht
  rw [List.getD_eq_getElem _ _ hlt, List.take_succ_eq_append_getElem hlt]

/-- W[t] comes from the words before it (42_compression.md R204). -/
theorem schedule_getD_eq_scheduleNext {t : Nat} (h16 : 16 ≤ t) (ht : t < 80) :
    (schedule block).getD t 0 = scheduleNext ((schedule block).take t).reverse := by
  obtain ⟨k, rfl⟩ := Nat.exists_eq_add_of_le h16
  have hsucc := schedule_take_succ hblock ht
  have hextend : scheduleExtend (k + 1) block.reverse =
      scheduleNext (scheduleExtend k block.reverse) :: scheduleExtend k block.reverse := scheduleExtend_add k 1 _
  rw [Nat.add_assoc, schedule_take hblock (by omega : k + 1 ≤ 64), hextend, schedule_take hblock (by omega : k ≤ 64),
    List.reverse_cons] at hsucc
  rw [schedule_take hblock (by omega : k ≤ 64), List.reverse_reverse]
  exact (List.singleton_inj.mp (List.append_cancel_left hsucc)).symm

/-- The words before W[t], the newest first. -/
theorem getD_reverse_take_schedule {t j : Nat} (ht : t ≤ 80) (hj : j < t) :
    ((schedule block).take t).reverse.getD j 0 = (schedule block).getD (t - 1 - j) 0 := by
  have hlength : ((schedule block).take t).length = t := by
    rw [List.length_take, length_schedule hblock, Nat.min_eq_left ht]
  rw [List.getD_eq_getElem?_getD, List.getElem?_reverse (by omega), hlength, List.getElem?_take_of_lt (by omega),
    List.getD_eq_getElem?_getD]

/-- W[t] by the four words before it that it comes from (42_compression.md R204). -/
theorem schedule_getD_of_le {t : Nat} (h16 : 16 ≤ t) (ht : t < 80) :
    (schedule block).getD t 0 =
      rotl ((schedule block).getD (t - 3) 0 ^^^ (schedule block).getD (t - 8) 0 ^^^
        (schedule block).getD (t - 14) 0 ^^^ (schedule block).getD (t - 16) 0) 1 := by
  rw [schedule_getD_eq_scheduleNext hblock h16 ht, scheduleNext, getD_reverse_take_schedule hblock ht.le (by omega),
    getD_reverse_take_schedule hblock ht.le (by omega), getD_reverse_take_schedule hblock ht.le (by omega),
    getD_reverse_take_schedule hblock ht.le (by omega)]
  rfl

end

/-! ### The window -/

/-- Before round t the window holds the sixteen schedule words before W[t], as far as there are so many. -/
def WindowHolds (ws : List Word) (q : Vector Word 16) (t : Nat) : Prop :=
  ∀ i, i < t → t ≤ i + 16 → windowGet q i = ws.getD i 0

theorem WindowHolds.windowSet {ws : List Word} {q : Vector Word 16} {t : Nat} (h : WindowHolds ws q t) :
    WindowHolds ws (windowSet q t (ws.getD t 0)) (t + 1) := by
  intro i hi h16
  rw [windowGet_windowSet]
  by_cases hit : i = t
  · rw [if_pos (by rw [hit]), hit]
  · rw [if_neg (by omega), h i (by omega) (by omega)]

theorem Memory.getD_blockWords (buf : Memory) {t : Nat} (ht : t < 16) : buf.blockWords.getD t 0 = buf.blockWord t := by
  simp [blockWords, Config.blockWords, List.getD_eq_getElem?_getD, ht]

/-- The word that the datapath forms is W[t] (42_compression.md R220). -/
theorem windowWord_eq_schedule {buf : Memory} {q : Vector Word 16} {t : Nat} (ht : t < 80)
    (h : WindowHolds (schedule buf.blockWords) q t) : windowWord buf q t = (schedule buf.blockWords).getD t 0 := by
  have hlength := Memory.length_blockWords buf
  unfold windowWord Config.blockWords
  by_cases h16 : t < 16
  · rw [if_pos h16, schedule_getD_of_lt hlength h16, Memory.getD_blockWords buf h16]
  · have hoverwritten : windowGet q t = windowGet q (t - 16) := by
      rw [← windowGet_mod q t, ← windowGet_mod q (t - 16)]
      congr 1
      omega
    rw [if_neg h16, schedule_getD_of_le hlength (by omega) ht, hoverwritten, h (t - 3) (by omega) (by omega),
      h (t - 8) (by omega) (by omega), h (t - 14) (by omega) (by omega), h (t - 16) (by omega) (by omega)]

/-! ### The edges of COMP -/

theorem clockEdge_of_comp (hphase : s.phase = .comp) : clockEdge s = .ok (compEdge s) := by
  simp [clockEdge, hphase]

/-- The last edge of COMP adds the working copy into H (42_compression.md R214). -/
theorem clockEdge_of_feed (hphase : s.phase = .comp) (hfeed : s.compStep = .feed) :
    clockEdge s = .ok (leaveComp (endCompression (feedForward s.h s.d) s)) := by
  rw [clockEdge_of_comp hphase, compEdge, hfeed]

/-- COMP before round t: the rounds before it have run on the words of the schedule. -/
def State.atRound (s : State) (t : Nat) (q : Vector Word 16) : State :=
  { s with
    d := runRounds 0 ((schedule s.buf.blockWords).take t) s.h, q := q, t := BitVec.ofNat 7 t, compStep := .round }

theorem clockEdge_atRound (hphase : s.phase = .comp) (t : Nat) (q : Vector Word 16) :
    clockEdge (s.atRound t q) = .ok (roundEdge (s.atRound t q)) :=
  clockEdge_of_comp (s := s.atRound t q) hphase

/-- A round runs on W[t] and leaves it in the window; the last one goes on to the feed-forward. -/
theorem roundEdge_atRound {t : Nat} {q : Vector Word 16} (ht : t < 80)
    (h : WindowHolds (schedule s.buf.blockWords) q t) :
    roundEdge (s.atRound t q) = { s with
      d := runRounds 0 ((schedule s.buf.blockWords).take (t + 1)) s.h
      q := windowSet q t ((schedule s.buf.blockWords).getD t 0)
      t := if t + 1 < 80 then BitVec.ofNat 7 t + 1 else BitVec.ofNat 7 t
      compStep := if t + 1 < 80 then .round else .feed } := by
  have hlength := Memory.length_blockWords s.buf
  have htoNat : (BitVec.ofNat 7 t).toNat = t := Nat.mod_eq_of_lt (by omega)
  have htake : ((schedule s.buf.blockWords).take t).length = t := by
    rw [List.length_take, length_schedule hlength, Nat.min_eq_left ht.le]
  simp only [roundEdge, State.atRound, htoNat, windowWord_eq_schedule ht h, Config.rounds,
    schedule_take_succ hlength ht, runRounds_append, htake, Nat.zero_add, runRounds_cons, runRounds_nil]

/-- The load edge and t rounds. -/
theorem clockEdges_atRound (hphase : s.phase = .comp) (hload : s.compStep = .load) : ∀ t, t < 80 →
    ∃ q, clockEdges (t + 1) s = .ok (s.atRound t q) ∧ WindowHolds (schedule s.buf.blockWords) q t
  | 0, _ => by
    refine ⟨s.q, ?_, fun i hi => absurd hi (Nat.not_lt_zero i)⟩
    rw [clockEdges_one, clockEdge_of_comp hphase, compEdge, hload]
    rfl
  | t + 1, ht => by
    obtain ⟨q, hedges, hwindow⟩ := clockEdges_atRound hphase hload t (by omega)
    refine ⟨_, ?_, hwindow.windowSet⟩
    rw [clockEdges_add 1 hedges, clockEdges_one, clockEdge_atRound hphase, roundEdge_atRound (by omega) hwindow,
      if_pos ht, if_pos ht, State.atRound, BitVec.ofNat_add]
    rfl

/-- The 82 edges of a block compression end in the state of COMPRESS as one operation. -/
theorem clockEdges_compression (hphase : s.phase = .comp) (hload : s.compStep = .load) :
    clockEdges 82 s = .ok (leaveComp (endCompression (compressWords s.h s.buf.blockWords) s)) := by
  obtain ⟨q, hedges, hwindow⟩ := clockEdges_atRound hphase hload 79 (by decide)
  have hall : (schedule s.buf.blockWords).take 80 = schedule s.buf.blockWords :=
    List.take_of_length_le (length_schedule (Memory.length_blockWords s.buf)).le
  have hlast := roundEdge_atRound (by decide) hwindow
  rw [hall] at hlast
  calc clockEdges 82 s
      = clockEdges 2 (s.atRound 79 q) := clockEdges_add 2 hedges
    _ = clockEdges 1 (roundEdge (s.atRound 79 q)) := clockEdges_succ (clockEdge_atRound hphase 79 q)
    _ = .ok (leaveComp (endCompression (compressWords s.h s.buf.blockWords) s)) := by
      rw [hlast, clockEdges_one]
      exact clockEdge_of_feed hphase rfl

end Sys2Proof.Machine
end

section
/-! Family 40_update.md, the sequencer: its edges carry each command but a first FINISH to the state of the command as
one operation (40_update.md R150, 41_finalize.md R182, 70_reset_and_hazards.md R300). -/

namespace Sys2Proof.Machine

variable {s t : State}

theorem clockEdge_of_data (hphase : s.phase = .data) : clockEdge s = dataEdge s := by
  simp [clockEdge, hphase]

/-! ### The edges of a beat -/

section
variable {b : Byte} {rest : List Byte} {u : State} (hrem : s.rem ≠ 0) (hbeats : s.beats = b :: rest)
include hrem hbeats

/-- A dropped beat takes one edge. -/
theorem clockEdge_of_dropped (hdrop : s.drop = true) :
    clockEdge (dataOrResp s) = .ok (dataOrResp (takeBeat rest s)) :=
  (clockEdge_of_data (if_neg hrem)).trans
    (dataEdge_eq_ok.mpr (.inr (.inr ⟨hrem, b, rest, hbeats, .inl ⟨hdrop, rfl⟩⟩)))

/-- The edge that absorbs a beat, up to the block step. -/
theorem clockEdge_of_absorbed (hdrop : s.drop = false) (hu : absorbByte b (takeBeat rest (dataOrResp s)) = .ok u) :
    clockEdge (dataOrResp s) = .ok (afterBeat u) :=
  (clockEdge_of_data (if_neg hrem)).trans
    (dataEdge_eq_ok.mpr (.inr (.inr ⟨hrem, b, rest, hbeats, .inr ⟨hdrop, u, hu, rfl⟩⟩)))

/-- A beat that does not fill the block takes one edge. -/
theorem clockEdges_absorb_of_room (hdrop : s.drop = false) (hroom : s.fill.toNat < 63)
    (hu : absorb b (takeBeat rest s) = .ok u) : clockEdges 1 (dataOrResp s) = .ok (dataOrResp u) := by
  have hfill : (s.fill + 1).toNat ≠ 64 := by
    rw [fill_succ (by omega)]
    omega
  obtain rfl := (absorb_eq_ok_of_room (s := takeBeat rest s) hroom).mp hu
  rw [clockEdges_one,
    clockEdge_of_absorbed hrem hbeats hdrop (absorbByte_eq_ok.mpr ⟨hroom.trans (by decide), rfl⟩),
    afterBeat_of_not_full hfill]
  rfl

/-- A beat that fills the block takes one edge, and its block compression 82. -/
theorem clockEdges_absorb_of_last (hdrop : s.drop = false) (hlast : s.fill.toNat = 63)
    (hu : absorb b (takeBeat rest s) = .ok u) : clockEdges 83 (dataOrResp s) = .ok (dataOrResp u) := by
  have hlt : s.fill.toNat < 64 := by omega
  have hfill : (s.fill + 1).toNat = 64 := by rw [fill_succ hlt, hlast]
  obtain rfl := (absorb_eq_ok_of_last (s := takeBeat rest s) hlast).mp hu
  rw [clockEdges_succ (clockEdge_of_absorbed hrem hbeats hdrop (absorbByte_eq_ok.mpr ⟨hlt, rfl⟩)),
    afterBeat_of_full hfill, clockEdges_compression rfl rfl]
  rfl

end

/-! ### The edges of all beats -/

/-- The beats that an UPDATE absorbs, and the edges that absorb them. -/
theorem clockEdges_absorb : ∀ (bs : List Byte) {s : State}, s.beats = bs → s.drop = false → s.fill.toNat < 64 →
    s.rem.toNat ≤ bs.length →
    ∃ t, collectBeats bs s = .ok t ∧
      clockEdges (s.rem.toNat + 82 * ((s.fill.toNat + s.rem.toNat) / 64)) (dataOrResp s) = .ok (dataOrResp t)
  | bs, s, hbeats, hdrop, hlt, hle => by
    by_cases hrem : s.rem = 0
    · refine ⟨s, collectBeats_none_owed hrem, ?_⟩
      have hnone : s.rem.toNat + 82 * ((s.fill.toNat + s.rem.toNat) / 64) = 0 := by
        simp [hrem, Nat.div_eq_of_lt hlt]
      rw [hnone]
      rfl
    · have howed := toNat_eq_toNat_sub_one_add_one hrem
      match bs with
      | [] => exact absurd hle (by rw [List.length_nil]; omega)
      | b :: rest =>
        obtain ⟨u, hu⟩ := exists_absorb_eq_ok (s := takeBeat rest s) b hlt
        obtain ⟨hurem, hudrop⟩ := absorb_rem_drop hu
        obtain ⟨-, hfill⟩ := absorb_fill hu
        rw [takeBeat_rem] at hurem
        rw [takeBeat_fill] at hfill
        rw [List.length_cons] at hle
        obtain ⟨t, ht, hedges⟩ := clockEdges_absorb rest (absorb_beats hu) (hudrop.trans hdrop)
          (hfill ▸ Nat.mod_lt _ (by decide)) (by rw [hurem]; omega)
        refine ⟨t, (collectBeats_absorbed hrem hdrop hu).trans ht, ?_⟩
        rw [hurem, hfill] at hedges
        by_cases hlast : s.fill.toNat = 63
        · have hcount : s.rem.toNat + 82 * ((s.fill.toNat + s.rem.toNat) / 64) =
              83 + ((s.rem - 1).toNat + 82 * (((s.fill.toNat + 1) % 64 + (s.rem - 1).toNat) / 64)) := by omega
          rw [hcount, clockEdges_add _ (clockEdges_absorb_of_last hrem hbeats hdrop hlast hu), hedges]
        · have hcount : s.rem.toNat + 82 * ((s.fill.toNat + s.rem.toNat) / 64) =
              1 + ((s.rem - 1).toNat + 82 * (((s.fill.toNat + 1) % 64 + (s.rem - 1).toNat) / 64)) := by omega
          rw [hcount, clockEdges_add _ (clockEdges_absorb_of_room hrem hbeats hdrop (by omega) hu), hedges]

/-- The beats that a refused UPDATE discards, one at each edge. -/
theorem clockEdges_drop : ∀ (bs : List Byte) {s : State}, s.beats = bs → s.drop = true → s.rem.toNat ≤ bs.length →
    ∃ t, collectBeats bs s = .ok t ∧ clockEdges s.rem.toNat (dataOrResp s) = .ok (dataOrResp t)
  | bs, s, hbeats, hdrop, hle => by
    by_cases hrem : s.rem = 0
    · refine ⟨s, collectBeats_none_owed hrem, ?_⟩
      rw [hrem]
      rfl
    · have howed := toNat_eq_toNat_sub_one_add_one hrem
      match bs with
      | [] => exact absurd hle (by rw [List.length_nil]; omega)
      | b :: rest =>
        rw [List.length_cons] at hle
        obtain ⟨t, ht, hedges⟩ := clockEdges_drop rest (s := takeBeat rest s) rfl hdrop (by rw [takeBeat_rem]; omega)
        refine ⟨t, (collectBeats_dropped hrem hdrop).trans ht, ?_⟩
        rw [howed, clockEdges_succ (clockEdge_of_dropped hrem hbeats hdrop)]
        exact hedges

/-! ### Every command -/

/-- Settles O51: the accepting edge, and then the edges of all beats. -/
theorem sequencerRefinesUpdate : Obligations.SequencerRefinesUpdate := by
  intro s len rest hidle hfin hfill hcmds hbeats
  obtain ⟨t, ht, hedges⟩ :=
    clockEdges_absorb s.beats (s := latchUpdate len { s with cmds := rest }) rfl hfin hfill hbeats
  refine ⟨dataOrResp t, execUpdate_eq_next.mpr ⟨t, ht, rfl⟩, ?_⟩
  rw [clockEdges_succ (clockEdge_of_command hidle hcmds), decode_encode rfl]
  exact hedges

/-- GET, an illegal word and a FINISH with FIN = 1 are done when they are accepted. -/
theorem exec_eq_acceptCommand {i : Instr}
    (h : i = .get ∨ (∃ word, i = .illegal word) ∨ (i = .finish ∧ s.fin = true)) :
    exec i s = .next (acceptCommand i s) := by
  obtain rfl | ⟨word, rfl⟩ | ⟨rfl, hfin⟩ := h
  · exact execGet_eq s
  · rfl
  · rw [acceptCommand, if_pos hfin]
    exact execFinish_of_fin hfin

/-- Settles O52: the accepting edge, and then one edge for each beat that is discarded. -/
theorem sequencerRefinesTheOtherCommands : Obligations.SequencerRefinesTheOtherCommands := by
  intro s word rest hidle hcmds
  have haccept := clockEdge_of_command hidle hcmds
  refine ⟨fun hcommand => ?_, fun len hdecode hfin hbeats => ?_⟩
  · have hat_once : decode word = .get ∨ (∃ w, decode word = .illegal w) ∨ (decode word = .finish ∧ s.fin = true) :=
      hcommand.imp_right (.imp_left fun hill => ⟨word, hill⟩)
    exact ⟨_, exec_eq_acceptCommand (s := { s with cmds := rest }) hat_once, (clockEdges_one s).trans haccept⟩
  · obtain ⟨t, ht, hedges⟩ :=
      clockEdges_drop s.beats (s := latchUpdate len { s with cmds := rest }) rfl hfin hbeats
    rw [hdecode] at haccept ⊢
    exact ⟨dataOrResp t, execUpdate_eq_next.mpr ⟨t, ht, rfl⟩, (clockEdges_succ haccept).trans hedges⟩

end Sys2Proof.Machine
end

section
/-! Family 41_finalize.md, FINISH edge by edge: the steps of PAD and the block compressions between them carry a first
FINISH to the state of padding as one operation (41_finalize.md R170, R182, 70_reset_and_hazards.md R300). -/

namespace Sys2Proof.Machine

variable {s t : State}

theorem clockEdge_of_pad (hphase : s.phase = .pad) : clockEdge s = padEdge s := by
  simp [clockEdge, hphase]

/-! ### The steps of PAD -/

/-- Step A goes on to the length field where there is room for it, else to a block compression. -/
theorem clockEdge_padMark (ht : padMark s = .ok t) :
    clockEdge (enterPad .a s) =
      .ok (if needsSecondBlock t.fill then enterComp .padB (enterPad .a t) else enterPad .c t) := by
  obtain ⟨hlt, rfl⟩ := padMark_eq_ok.mp ht
  rw [clockEdge_of_pad rfl]
  exact (padEdge_a_eq_ok rfl).mpr ⟨_, padMark_eq_ok.mpr ⟨hlt, rfl⟩, rfl⟩

/-- With room for the length field the mark is one edge (41_finalize.md R173). -/
theorem clockEdges_padMark_of_room (ht : padMark s = .ok t) (hroom : t.fill.toNat ≤ 56) :
    clockEdges 1 (enterPad .a s) = .ok (enterPad .c (padOverflow t)) := by
  have hone : ¬needsSecondBlock t.fill = true := fun htwo => absurd ((needsSecondBlock_iff _).mp htwo) (by omega)
  rw [clockEdges_one, clockEdge_padMark ht, if_neg hone, padOverflow_of_room hroom]

/-- Without room the mark, the compression of its block and the zeros of the fresh block are 84 edges
(41_finalize.md R173). -/
theorem clockEdges_padMark_of_no_room (ht : padMark s = .ok t) (hnoroom : 56 < t.fill.toNat) :
    clockEdges 84 (enterPad .a s) = .ok (enterPad .c (padOverflow t)) := by
  have hcomp : clockEdges 82 (enterComp .padB (enterPad .a t)) = .ok (enterPad .b (compress .padB t)) :=
    clockEdges_compression rfl rfl
  rw [clockEdges_succ (clockEdge_padMark ht), if_pos ((needsSecondBlock_iff _).mpr hnoroom),
    clockEdges_add 1 hcomp, clockEdges_one, clockEdge_of_pad rfl, padOverflow_of_no_room hnoroom]
  rfl

/-- The length field, the compression of the last block and the end of FINISH are 84 edges. -/
theorem clockEdges_padLength (s : State) :
    clockEdges 84 (enterPad .c s) = .ok (markFinalized (compress .finishDone (padLength s))) := by
  have hlength : clockEdge (enterPad .c s) = .ok (enterComp .finishDone (padLength (enterPad .c s))) :=
    clockEdge_of_pad rfl
  have hcomp : clockEdges 82 (enterComp .finishDone (padLength (enterPad .c s))) =
      .ok (enterPad .done (compress .finishDone (padLength s))) :=
    clockEdges_compression rfl rfl
  rw [clockEdges_succ hlength, clockEdges_add 1 hcomp, clockEdges_one, clockEdge_of_pad rfl]
  rfl

/-! ### The command -/

/-- Settles O50: the accepting edge, the edges up to the length field, and the 84 edges from there. -/
theorem sequencerRefinesFinish : Obligations.SequencerRefinesFinish := by
  intro s rest hidle hfin hlt hcmds
  obtain ⟨u, hu⟩ := exists_padMark_eq_ok (s := latchOp 0b01 { s with cmds := rest }) hlt
  have hfill : u.fill.toNat = s.fill.toNat + 1 := by
    obtain ⟨-, rfl⟩ := padMark_eq_ok.mp hu
    exact fill_succ hlt
  have haccept : clockEdge s = .ok (enterPad .a (latchOp 0b01 { s with cmds := rest })) := by
    have hdecode : decode 0x40000000 = .finish := by decide
    rw [clockEdge_of_command hidle hcmds, hdecode, acceptCommand, hfin]
    rfl
  have hexec : exec .finish { s with cmds := rest } =
      .next (markFinalized (compress .finishDone (padLength (padOverflow u)))) :=
    (execFinish_eq_next (s := { s with cmds := rest }) hfin).mpr ⟨_, padMessage_eq_ok.mpr ⟨u, hu, rfl⟩, rfl⟩
  refine ⟨_, hexec, fun hroom => ?_, fun hnoroom => ?_⟩
  · rw [clockEdges_succ haccept, clockEdges_add 84 (clockEdges_padMark_of_room hu (by omega)), clockEdges_padLength]
  · rw [clockEdges_succ haccept, clockEdges_add 84 (clockEdges_padMark_of_no_room hu (by omega)), clockEdges_padLength]

end Sys2Proof.Machine
end

section
/-! Family 41_finalize.md, the padded message and its digest: the length field, whole blocks, and the digest that FINISH
answers (41_finalize.md R170 to R175, R183, 40_update.md R151). -/

namespace Sys2Proof.Machine

variable {s t : State}

/-! ### The standard padding -/

/-- The eight bytes of a 64-bit value stand for it. -/
theorem bigEndianValue_be64bytes (c : BitVec 64) : bigEndianValue (be64bytes c) = c.toNat := by
  have hc := c.isLt
  simp only [bigEndianValue, be64bytes, List.foldl_cons, List.foldl_nil, BitVec.extractLsb'_toNat,
    Nat.shiftRight_eq_div_pow]
  omega

/-- The length field of the padded message is the length in bits, modulo 2^64 (40_update.md R151). -/
theorem paddedLength_eq (m : List Byte) : paddedLength m = 8 * m.length % 2 ^ 64 := by
  have hfield : (paddedMessage m).drop ((paddedMessage m).length - 8) = be64bytes (BitVec.ofNat 64 (8 * m.length)) := by
    unfold paddedMessage
    refine List.drop_left' ?_
    simp [be64bytes]
    omega
  rw [paddedLength, hfield, bigEndianValue_be64bytes, BitVec.toNat_ofNat]

theorem length_paddedMessage (m : List Byte) :
    (paddedMessage m).length = m.length + 1 + paddingZeros m.length + 8 := by
  rw [paddedMessage_eq, List.length_append, length_paddingOf]
  omega

/-- Settles O47: the zeros are counted modulo 64, and eight bytes follow them. -/
theorem paddingIsTheStandardOne : Obligations.PaddingIsTheStandardOne := by
  intro m
  have hzeros : paddingZeros m.length = (119 - m.length % 64) % 64 := rfl
  refine ⟨by omega, fun k hk => by omega, ?_⟩
  rw [length_paddedMessage]
  omega

/-- Settles O46: the stream invariant gives COUNT, and FINISH folds the padded message. -/
theorem finishAnswersTheStandardDigest : Obligations.FinishAnswersTheStandardDigest := by
  intro m s hstream hwf
  obtain ⟨hfin, habsorbed⟩ := stream_iff.mp hstream
  have hpadded : paddedMessage m = m ++ paddingOf m.length s.count := by rw [paddedMessage_eq, hstream.count]
  obtain ⟨t, ht, -, -, hresponse⟩ := habsorbed.exec_finish hwf hfin hpadded
  refine ⟨paddedLength_eq m, fun hshort => ?_, t, ht, hresponse⟩
  rw [paddedLength_eq, Nat.mod_eq_of_lt (by omega)]

/-! ### What a first FINISH leaves -/

/-- BUF after PAD: 0x80 and zeros behind the bytes in it, or the fresh block in their place, and the length field
(41_finalize.md R170). -/
theorem padMessage_buf (ht : padMessage s = .ok t) {marked : Memory}
    (hmarked : marked = (s.buf.write s.fill.toNat 0x80).zeroFill (s.fill.toNat + 1) 64) :
    t.buf = (if s.fill.toNat ≤ 55 then marked else marked.zeroFill 0 56).writeLength s.count := by
  obtain ⟨u, hu, rfl⟩ := padMessage_eq_ok.mp ht
  obtain ⟨hlt, rfl⟩ := padMark_eq_ok.mp hu
  have hfill : (s.fill + 1).toNat = s.fill.toNat + 1 := fill_succ hlt
  subst hmarked
  by_cases hroom : s.fill.toNat ≤ 55
  · have hroom' : (s.fill + 1).toNat ≤ 56 := by omega
    rw [if_pos hroom, padOverflow_of_room hroom']
    rfl
  · have hnoroom : 56 < (s.fill + 1).toNat := by omega
    rw [if_neg hroom, padOverflow_of_no_room hnoroom]
    rfl

/-- Padding stores inside the buffer alone (20_memory.md R70). -/
theorem padMessage_read_of_le (hwf : s.buf.wf = true) (hlt : s.fill.toNat < 64) (ht : padMessage s = .ok t) {a : Nat}
    (ha : 64 ≤ a) : t.buf.read a = s.buf.read a := by
  have hwrite := Memory.wf_write (v := 0x80) hwf hlt
  have hmarked := Memory.wf_zeroFill (a := s.fill.toNat + 1) (b := 64) hwrite hlt le_rfl
  have hread : ((s.buf.write s.fill.toNat 0x80).zeroFill (s.fill.toNat + 1) 64).read a = s.buf.read a := by
    rw [Memory.read_zeroFill a hwrite hlt le_rfl, if_neg (by omega), Memory.read_write hwf, if_neg (by omega)]
  rw [padMessage_buf ht rfl]
  by_cases hroom : s.fill.toNat ≤ 55
  · rw [if_pos hroom, Memory.read_writeLength a hmarked, if_neg (by omega), hread]
  · have hfresh := Memory.wf_zeroFill (a := 0) (b := 56) hmarked (by decide) (by decide)
    rw [if_neg hroom, Memory.read_writeLength a hfresh, if_neg (by omega),
      Memory.read_zeroFill a hmarked (by decide) (by decide), if_neg (by omega), hread]

theorem padMessage_fill (ht : padMessage s = .ok t) : t.fill = 0 := by
  obtain ⟨u, -, rfl⟩ := padMessage_eq_ok.mp ht
  rfl

/-- The response to a FINISH or a GET that succeeds has the digest of H (41_finalize.md R182). -/
theorem pendingResponse_of_digest (hstatus : s.pstat = .ok) (hop : s.opl = 0b01 ∨ s.opl = 0b10) :
    s.pendingResponse = ⟨0, digestOf s.h⟩ := by
  have hcarries : s.carriesDigest = true := by simpa [State.carriesDigest, hstatus] using hop
  simp [State.pendingResponse, State.rspStatus, State.rspDigest, hcarries, hstatus, Status.code]

/-- Settles O34: what PAD leaves in H, BUF and FILL, by whether the length field has room, and its frame. -/
theorem finishPadsAndFinalizes : Obligations.FinishPadsAndFinalizes := by
  rintro s m hwf hfin hlt rfl
  obtain ⟨v, hv⟩ := exists_padMark_eq_ok (s := latchOp 0b01 s) hlt
  obtain ⟨u, hu⟩ : ∃ u, padMessage (latchOp 0b01 s) = .ok u := ⟨_, padMessage_eq_ok.mpr ⟨v, hv, rfl⟩⟩
  obtain ⟨hcount, -, hopl, hrem, hdrop, hstarted, hrst, hcmds, hbeats, hready, hresponses, hheldCmd, hheldBeat⟩ :=
    padMessage_frame hu
  have hfill : u.fill = 0 := padMessage_fill hu
  refine ⟨markFinalized u, (execFinish_eq_next hfin).mpr ⟨u, hu, rfl⟩, ?_, ?_,
    fun a ha => padMessage_read_of_le (s := latchOp 0b01 s) hwf hlt hu ha, hfill, hcount, rfl, rfl, hopl, rfl,
    pendingResponse_of_digest rfl (.inl hopl), hrem, hdrop, hstarted, hrst, hcmds, hbeats, hready, hresponses,
    hheldCmd, hheldBeat⟩
  · rintro block hroom rfl
    obtain ⟨u', hu', hh⟩ := padMessage_of_room (s := latchOp 0b01 s) hwf hroom
    obtain rfl : u = u' := Except.ok.inj (hu.symm.trans hu')
    refine ⟨hh, ?_⟩
    rw [markFinalized_buf, padMessage_buf hu rfl, latchOp_fill, if_pos hroom]
    exact Memory.readBytes_marked_writeLength hwf hroom s.count
  · rintro block₁ block₂ hnoroom rfl rfl
    obtain ⟨u', hu', hh⟩ := padMessage_of_no_room (s := latchOp 0b01 s) hwf hnoroom hlt
    obtain rfl : u = u' := Except.ok.inj (hu.symm.trans hu')
    refine ⟨hh, ?_⟩
    rw [markFinalized_buf, padMessage_buf hu rfl, latchOp_fill, if_neg (by omega)]
    exact Memory.readBytes_fresh_writeLength
      (Memory.wf_zeroFill (Memory.wf_write hwf hlt) hlt le_rfl) s.count

end Sys2Proof.Machine
end

section
/-! Family 41_finalize.md, the answers: the digest's words and bytes (41_finalize.md R178), FINISH once finalised (R176),
and GET, which no later response depends on (R180, R181). -/

namespace Sys2Proof.Machine

variable {s t : State}

/-! ### The digest -/

/-- Word j of the digest, H[0] the most significant. -/
theorem extractLsb'_digestOf (h : Words5) {j : Nat} (hj : j < 5) :
    (digestOf h).extractLsb' (128 - 32 * j) 32 = ([h.w0, h.w1, h.w2, h.w3, h.w4] : List Word).getD j 0 := by
  apply BitVec.eq_of_getLsbD_eq
  intro i hi
  rw [BitVec.getLsbD_extractLsb', getLsbD_digestOf, decide_eq_true hi, Bool.true_and]
  interval_cases j
  · rw [if_neg (by omega), if_neg (by omega), if_neg (by omega), if_neg (by omega), Nat.add_sub_cancel_left]
    rfl
  · rw [if_neg (by omega), if_neg (by omega), if_neg (by omega), if_pos (by omega), Nat.add_sub_cancel_left]
    rfl
  · rw [if_neg (by omega), if_neg (by omega), if_pos (by omega), Nat.add_sub_cancel_left]
    rfl
  · rw [if_neg (by omega), if_pos (by omega), Nat.add_sub_cancel_left]
    rfl
  · rw [if_pos (by omega), Nat.zero_add]
    rfl

/-- A byte of the digest is a byte of one of its words. -/
theorem digestByte_eq (digest : Digest) {k : Nat} (hk : k < 20) :
    digestByte digest k = (digest.extractLsb' (128 - 32 * (k / 4)) 32).extractLsb' (24 - 8 * (k % 4)) 8 := by
  have hstart : 152 - 8 * k = 128 - 32 * (k / 4) + (24 - 8 * (k % 4)) := by omega
  apply BitVec.eq_of_getLsbD_eq
  intro i hi
  have hword : 24 - 8 * (k % 4) + i < 32 := by omega
  rw [digestByte, hstart]
  simp [hi, hword, Nat.add_assoc]

/-- Settles O25: word by word, and each byte in its word. -/
theorem digestIsFiveBigEndianWords : Obligations.DigestIsFiveBigEndianWords := by
  intro h
  refine ⟨extractLsb'_digestOf h (j := 0) (by decide), extractLsb'_digestOf h (j := 1) (by decide),
    extractLsb'_digestOf h (j := 2) (by decide), extractLsb'_digestOf h (j := 3) (by decide),
    extractLsb'_digestOf h (j := 4) (by decide), fun k hk => ?_⟩
  rw [digestByte_eq _ hk, extractLsb'_digestOf h (by omega)]

/-! ### FINISH once finalised, and GET -/

/-- Settles O35: OK is answered at once, and H is the H of before. -/
theorem finishIsIdempotent : Obligations.FinishIsIdempotent := by
  intro s hfin
  have hexec : exec .finish s = .next (respond .ok (latchOp 0b01 s)) := execFinish_of_fin hfin
  refine ⟨hexec, fun t ht => ?_⟩
  rw [hexec] at ht
  cases ht
  exact pendingResponse_of_digest rfl (.inl rfl)

/-- What GET answers (41_finalize.md R180). -/
theorem pendingResponse_get (s : State) :
    (respond (getStatus s.fin) (latchOp 0b10 s)).pendingResponse = if s.fin then ⟨0, digestOf s.h⟩ else ⟨2, 0⟩ := by
  cases hfin : s.fin with
  | true => exact pendingResponse_of_digest rfl (.inr rfl)
  | false => exact pendingResponse_of_error (by simp [getStatus])

/-- Settles O36: GET's row by its fields, and the status by FIN. -/
theorem getAnswersIfFinalized : Obligations.GetAnswersIfFinalized := by
  refine ⟨decode_of_get (by decide) (by decide), fun len hlen => ?_, fun s => ?_⟩
  · exact decode_of_illegalWord ((Laws.EncodedFields.illegalWord_iff _).mpr
      ⟨by simp, .inr (by simpa using hlen)⟩)
  · have hexec : exec .get s = .next (respond (getStatus s.fin) (latchOp 0b10 s)) := execGet_eq s
    have hresponse (t : State) (ht : exec .get s = .next t) :
        t.pendingResponse = if s.fin then ⟨0, digestOf s.h⟩ else ⟨2, 0⟩ := by
      rw [hexec] at ht
      cases ht
      exact pendingResponse_get s
    refine ⟨fun hfin => ?_, fun hfin => ?_⟩ <;> rw [hfin] at hexec hresponse <;> exact ⟨hexec, hresponse⟩

/-! ### What the last answer leaves -/

/-- The state with OPL, PSTAT, PHASE and the responses of another: all that a command without architectural effect and its
answer write. -/
def State.answeredAs (s a : State) : State :=
  { s with opl := a.opl, pstat := a.pstat, phase := a.phase, responses := a.responses }

theorem compressIfFull_answeredAs (s a : State) :
    compressIfFull (s.answeredAs a) = (compressIfFull s).answeredAs a := by
  by_cases hfull : s.fill.toNat = 64
  · rw [compressIfFull_of_full hfull, compressIfFull_of_full (s := s.answeredAs a) hfull]
    rfl
  · rw [compressIfFull_of_not_full hfull, compressIfFull_of_not_full (s := s.answeredAs a) hfull]

theorem absorb_answeredAs {b : Byte} (ht : absorb b s = .ok t) (a : State) :
    absorb b (s.answeredAs a) = .ok (t.answeredAs a) := by
  obtain ⟨hlt, rfl⟩ := absorb_eq_ok.mp ht
  exact absorb_eq_ok.mpr ⟨hlt, (compressIfFull_answeredAs _ a).symm⟩

theorem collectBeats_answeredAs : ∀ {bs : List Byte} {s t : State}, collectBeats bs s = .ok t → ∀ a : State,
    collectBeats bs (s.answeredAs a) = .ok (t.answeredAs a)
  | [], s, t, ht, a => by
    cases ht
    rfl
  | b :: rest, s, t, ht, a => by
    obtain ⟨hrem, rfl⟩ | ⟨hrem, hdrop, ht⟩ | ⟨hrem, hdrop, u, hu, ht⟩ := collectBeats_cons_cases ht
    · exact collectBeats_none_owed (s := t.answeredAs a) hrem
    · exact (collectBeats_dropped (s := s.answeredAs a) hrem hdrop).trans
        (collectBeats_answeredAs (s := takeBeat rest s) ht a)
    · exact (collectBeats_absorbed (s := s.answeredAs a) hrem hdrop (absorb_answeredAs hu a)).trans
        (collectBeats_answeredAs ht a)

theorem padOverflow_answeredAs (s a : State) : padOverflow (s.answeredAs a) = (padOverflow s).answeredAs a := by
  by_cases hroom : s.fill.toNat ≤ 56
  · rw [padOverflow_of_room hroom, padOverflow_of_room (s := s.answeredAs a) hroom]
  · have hnoroom : 56 < s.fill.toNat := by omega
    rw [padOverflow_of_no_room hnoroom, padOverflow_of_no_room (s := s.answeredAs a) hnoroom]
    rfl

theorem padMessage_answeredAs (ht : padMessage s = .ok t) (a : State) :
    padMessage (s.answeredAs a) = .ok (t.answeredAs a) := by
  obtain ⟨u, hu, rfl⟩ := padMessage_eq_ok.mp ht
  obtain ⟨hlt, rfl⟩ := padMark_eq_ok.mp hu
  refine padMessage_eq_ok.mpr ⟨_, padMark_eq_ok.mpr ⟨hlt, rfl⟩, ?_⟩
  exact congrArg (fun v => compress .finishDone (padLength v)) (padOverflow_answeredAs _ a).symm

/-- A command writes OPL, PSTAT and PHASE before it reads them, and reads and writes no response. -/
theorem exec_answeredAs {i : Instr} (ht : exec i s = .next t) (a : State) :
    exec i (s.answeredAs a) = .next { t with responses := a.responses } := by
  cases i with
  | update len =>
    obtain ⟨u, hu, rfl⟩ := execUpdate_eq_next.mp ht
    obtain ⟨-, -, hopl, -, hpstat, -⟩ := collectBeats_frame hu
    refine execUpdate_eq_next.mpr
      ⟨_, collectBeats_answeredAs hu { a with opl := 0b00, pstat := updateStatus s.fin }, ?_⟩
    simp only [State.answeredAs, dataOrResp, hopl, hpstat, latchUpdate_opl, latchUpdate_pstat]
    rfl
  | finish =>
    cases hfin : s.fin with
    | true =>
      cases (execFinish_of_fin hfin).symm.trans ht
      exact execFinish_of_fin hfin
    | false =>
      obtain ⟨u, hu, rfl⟩ := (execFinish_eq_next hfin).mp ht
      obtain ⟨-, -, hopl, -⟩ := padMessage_frame hu
      refine (execFinish_eq_next (s := s.answeredAs a) hfin).mpr
        ⟨_, padMessage_answeredAs hu (latchOp 0b01 a), ?_⟩
      simp [State.answeredAs, markFinalized, respond, hopl]
  | get =>
    cases (execGet_eq s).symm.trans ht
    exact execGet_eq _
  | illegal word =>
    cases ht
    rfl

theorem exec_responses {i : Instr} (ht : exec i s = .next t) : t.responses = s.responses := by
  have hself : exec i s = .next { t with responses := s.responses } := exec_answeredAs ht s
  injection ht.symm.trans hself with heq
  exact (congrArg State.responses heq :)

/-! ### The answers to later commands -/

theorem answer_eq_some {word : BitVec 32} :
    answer word s = some t ↔ ∃ u, exec (decode word) s = .next u ∧ u.phase = .resp ∧ t = takeResponse u := by
  unfold answer
  cases exec (decode word) s <;> simp [eq_comm]

/-- A command is answered alike after any answer, and the response recorded behind those of before. -/
theorem answer_answeredAs {word : BitVec 32} (ht : answer word s = some t) (a : State) :
    ∃ (r : Response) (a' : State), answer word (s.answeredAs a) = some (t.answeredAs a') ∧
      t.responses = s.responses ++ [r] ∧ a'.responses = a.responses ++ [r] := by
  obtain ⟨u, hu, hphase, rfl⟩ := answer_eq_some.mp ht
  refine ⟨u.pendingResponse, takeResponse { u with responses := a.responses }, ?_, ?_, rfl⟩
  · exact answer_eq_some.mpr ⟨_, exec_answeredAs hu a, hphase, rfl⟩
  · rw [takeResponse_responses, exec_responses hu]

theorem answer_answeredAs_eq_none {word : BitVec 32} (hnone : answer word s = none) (a : State) :
    answer word (s.answeredAs a) = none := by
  refine Option.eq_none_iff_forall_ne_some.mpr fun t ht => ?_
  obtain ⟨-, a', hsome, -⟩ := answer_answeredAs ht s
  exact absurd (hsome.symm.trans hnone) (Option.some_ne_none _)

/-- No response depends on what the last answer left. -/
theorem answers_answeredAs : ∀ (words : List (BitVec 32)) (s a : State),
    answers words (s.answeredAs a) = answers words s
  | [], _, _ => rfl
  | word :: words, s, a => by
    cases hanswer : answer word s with
    | none => rw [answers, answers, hanswer, answer_answeredAs_eq_none hanswer]
    | some t =>
      obtain ⟨r, a', hsome, hresponses, hresponses'⟩ := answer_answeredAs hanswer a
      have hnew : (t.answeredAs a').responses.drop (s.answeredAs a).responses.length = [r] := by
        show a'.responses.drop a.responses.length = [r]
        rw [hresponses', List.drop_left]
      rw [answers, answers, hanswer, hsome]
      show (t.answeredAs a').responses.drop (s.answeredAs a).responses.length ++ answers words (t.answeredAs a') =
        t.responses.drop s.responses.length ++ answers words t
      rw [hnew, hresponses, List.drop_left, answers_answeredAs words t a']

/-- Settles O37: GET and its answer leave a state that differs by `State.answeredAs` alone. -/
theorem getIsInvisible : Obligations.GetIsInvisible := by
  intro s words
  have hexec : exec (decode 0x80000000) s = .next (respond (getStatus s.fin) (latchOp 0b10 s)) := execGet_eq s
  rw [answers_cons hexec rfl rfl, pendingResponse_get]
  exact congrArg _ (answers_answeredAs words s (takeResponse (respond (getStatus s.fin) (latchOp 0b10 s))))

end Sys2Proof.Machine
end

section
/-! Family 42_compression.md, the rounds: groups and constants (42_compression.md R205, R207), the boolean functions (R206,
R208), one round (R210, R211), and COMPRESS as the fold of the rounds (R213, R214, R216). -/

namespace Sys2Proof.Machine

/-! ### Round groups -/

/-- Group g is the twenty rounds from 20g on (42_compression.md R205). -/
theorem roundGroup_eq {t : Nat} (g : Nat) (hlo : g * 20 ≤ t) (hhi : t < (g + 1) * 20) : roundGroup t = g :=
  Nat.div_eq_of_lt_le hlo hhi

/-- Settles O14: each range of rounds is one group. -/
theorem roundConstantsByGroup : Obligations.RoundConstantsByGroup := by
  intro t
  refine ⟨fun hhi => ?_, fun hlo hhi => ?_, fun hlo hhi => ?_, fun hlo hhi => ?_⟩
  · rw [roundGroup_eq 0 (Nat.zero_le t) hhi]
    exact ⟨rfl, rfl⟩
  · rw [roundGroup_eq 1 hlo hhi]
    exact ⟨rfl, rfl⟩
  · rw [roundGroup_eq 2 hlo hhi]
    exact ⟨rfl, rfl⟩
  · rw [roundGroup_eq 3 hlo hhi]
    exact ⟨rfl, rfl⟩

/-- Settles O15: each range of rounds is one group. -/
theorem roundFunctionsByGroup : Obligations.RoundFunctionsByGroup := by
  intro t x y z
  refine ⟨fun hhi => ?_, fun hlo hhi => ?_, fun hlo hhi => ?_, fun hlo hhi => ?_⟩
  · rw [roundGroup_eq 0 (Nat.zero_le t) hhi]
    rfl
  · rw [roundGroup_eq 1 hlo hhi]
    rfl
  · rw [roundGroup_eq 2 hlo hhi]
    rfl
  · rw [roundGroup_eq 3 hlo hhi]
    rfl

/-! ### The boolean functions bit by bit -/

theorem getLsbD_ch (x y z : Word) {i : Nat} (hi : i < 32) :
    (ch x y z).getLsbD i = if x.getLsbD i then y.getLsbD i else z.getLsbD i := by
  rw [ch, BitVec.getLsbD_or, BitVec.getLsbD_and, BitVec.getLsbD_and, BitVec.getLsbD_not, decide_eq_true hi]
  cases x.getLsbD i <;> simp

theorem getLsbD_parity (x y z : Word) (i : Nat) :
    (parity x y z).getLsbD i = ((x.getLsbD i ^^ y.getLsbD i) ^^ z.getLsbD i) := by
  rw [parity, BitVec.getLsbD_xor, BitVec.getLsbD_xor]

theorem getLsbD_maj (x y z : Word) (i : Nat) :
    (maj x y z).getLsbD i =
      (x.getLsbD i && y.getLsbD i || x.getLsbD i && z.getLsbD i || y.getLsbD i && z.getLsbD i) := by
  rw [maj, BitVec.getLsbD_or, BitVec.getLsbD_or, BitVec.getLsbD_and, BitVec.getLsbD_and, BitVec.getLsbD_and]

theorem xor_xor_eq_true_iff : ∀ a b c : Bool, ((a ^^ b) ^^ c) = true ↔ (a.toNat + b.toNat + c.toNat) % 2 = 1 := by
  decide

theorem majority_eq_true_iff : ∀ a b c : Bool,
    (a && b || a && c || b && c) = true ↔ 2 ≤ a.toNat + b.toNat + c.toNat := by
  decide

/-- Settles O16: each function acts on the three bits at a position, by its truth table. -/
theorem roundFunctionsBitByBit : Obligations.RoundFunctionsBitByBit := by
  intro x y z i hi
  refine ⟨getLsbD_ch x y z hi, ?_, ?_⟩
  · rw [getLsbD_parity]
    exact xor_xor_eq_true_iff _ _ _
  · rw [getLsbD_maj]
    exact majority_eq_true_iff _ _ _

/-! ### One round, and the rounds in order -/

/-- Settles O18: the round sum is R210's five summands, and the other words only move. -/
theorem roundMixesAndMovesTheWords : Obligations.RoundMixesAndMovesTheWords := by
  intro t w d
  have hsum : roundSum t w d =
      rotl d.w0 5 + d.w4 + w + roundConstant (t / 20) + roundFunction (t / 20) d.w1 d.w2 d.w3 :=
    (BitVec.add_assoc _ _ _).symm
  exact ⟨hsum, rfl, rfl, rfl, rfl⟩

/-- The rounds from round t on are the fold of `round` over their numbers (42_compression.md R213). -/
theorem runRounds_eq_foldl : ∀ (ws : List Word) (t : Nat) (d : Words5),
    runRounds t ws d = (List.range ws.length).foldl (fun d k => round (t + k) (ws.getD k 0) d) d
  | [], _, _ => rfl
  | w :: ws, t, d => by
    rw [runRounds_cons, runRounds_eq_foldl ws, List.length_cons, List.range_succ_eq_map, List.foldl_cons,
      List.foldl_map]
    simp only [List.getD_cons_zero, List.getD_cons_succ, Nat.add_zero, Nat.succ_eq_add_one, Nat.add_right_comm,
      Nat.add_assoc]

/-- Settles O20: COMPRESS runs `runRounds` on the eighty schedule words, which is the fold. -/
theorem compressRunsTheRoundsAndFeedsForward : Obligations.CompressRunsTheRoundsAndFeedsForward := by
  rintro ret s d rfl
  refine ⟨?_, rfl, rfl, rfl, rfl⟩
  have hrounds := runRounds_eq_foldl (schedule s.buf.blockWords) 0 s.h
  simp only [length_schedule (Memory.length_blockWords s.buf), Nat.zero_add] at hrounds
  rw [← hrounds]
  rfl

end Sys2Proof.Machine
end

section
/-! Family 42_compression.md, the datapath: the schedule (42_compression.md R203, R204), its windowed form (R220, R221), and
which edges write H (R215). -/

namespace Sys2Proof.Machine

variable {s t : State}

/-- Settles O21: `clockEdges_compression`, where T_BLOCK is 82 edges. -/
theorem windowedDatapathIsCompress : Obligations.WindowedDatapathIsCompress :=
  fun _ hphase hload => clockEdges_compression hphase hload

/-- Settles O19: the first sixteen words are the block's, and the rest follow the recurrence. -/
theorem scheduleExpandsTheBlock : Obligations.ScheduleExpandsTheBlock := by
  intro m
  have hblock := Memory.length_blockWords m
  refine ⟨length_schedule hblock, fun t ht => ?_, fun t h16 ht => schedule_getD_of_le hblock h16 ht⟩
  rw [schedule_getD_of_lt hblock ht, Memory.getD_blockWords m ht]
  rfl

/-! ### What leaves H alone -/

theorem acceptCommand_h (i : Instr) (s : State) : (acceptCommand i s).h = s.h := by
  cases i with
  | finish =>
    rw [acceptCommand]
    split <;> rfl
  | update _ | get | illegal _ => rfl

theorem afterBeat_h (s : State) : (afterBeat s).h = s.h := by
  unfold afterBeat
  split <;> rfl

theorem dataEdge_h (ht : dataEdge s = .ok t) : t.h = s.h := by
  obtain ⟨-, rfl⟩ | ⟨-, -, rfl⟩ | ⟨-, b, rest, -, ⟨-, rfl⟩ | ⟨-, u, hu, rfl⟩⟩ := dataEdge_eq_ok.mp ht
  · rfl
  · rfl
  · rfl
  · obtain ⟨-, rfl⟩ := absorbByte_eq_ok.mp hu
    exact afterBeat_h _

theorem leaveComp_h (s : State) : (leaveComp s).h = s.h := by
  unfold leaveComp
  split <;> rfl

theorem compEdge_h_of_not_feed (hstep : s.compStep ≠ .feed) : (compEdge s).h = s.h := by
  unfold compEdge
  split
  · rfl
  · rfl
  · next hfeed => exact absurd hfeed hstep

theorem padEdge_h (ht : padEdge s = .ok t) : t.h = s.h := by
  cases hstep : s.padStep with
  | a =>
    obtain ⟨u, hu, rfl⟩ := (padEdge_a_eq_ok hstep).mp ht
    obtain ⟨-, rfl⟩ := padMark_eq_ok.mp hu
    split <;> rfl
  | b | c | done =>
    simp only [padEdge, hstep, Except.ok.injEq] at ht
    exact ht ▸ rfl

/-- Every edge but the feed-forward leaves H alone (42_compression.md R215). -/
theorem clockEdge_h_of_not_feed (hfeed : ¬(s.phase = .comp ∧ s.compStep = .feed)) (ht : clockEdge s = .ok t) :
    t.h = s.h := by
  cases hphase : s.phase with
  | idle =>
    cases hcmds : s.cmds with
    | nil =>
      cases (clockEdge_idle_of_no_command hphase hcmds).symm.trans ht
      rfl
    | cons word rest =>
      cases (clockEdge_of_command hphase hcmds).symm.trans ht
      exact acceptCommand_h _ _
  | data => exact dataEdge_h ((clockEdge_of_data hphase).symm.trans ht)
  | comp =>
    cases (clockEdge_of_comp hphase).symm.trans ht
    exact compEdge_h_of_not_feed fun hstep => hfeed ⟨hphase, hstep⟩
  | pad => exact padEdge_h ((clockEdge_of_pad hphase).symm.trans ht)
  | resp =>
    simp only [clockEdge, hphase, Except.ok.injEq] at ht
    subst ht
    split <;> rfl

/-- Settles O22: every other edge leaves H alone, and the feed-forward edge adds the working copy. -/
theorem onlyFeedForwardWritesH : Obligations.OnlyFeedForwardWritesH := by
  intro s t ht
  refine ⟨fun hne => ?_, fun hphase hfeed => ?_⟩
  · by_contra hother
    exact hne (clockEdge_h_of_not_feed hother ht)
  · cases (clockEdge_of_feed hphase hfeed).symm.trans ht
    exact leaveComp_h _

end Sys2Proof.Machine
end

section
/-! Family 70_reset_and_hazards.md, reset and the duty to hold offers: a reset edge (70_reset_and_hazards.md R281 to
R284), the offers noted at a step (70_reset_and_hazards.md R290), and the response channel (70_reset_and_hazards.md
R294). -/

namespace Sys2Proof.Machine

variable {s t : State}

/-! ### Noting the offers -/

/-- What the host offers on the two channels. -/
def State.offers (s : State) : List (BitVec 32) × List Byte := (s.cmds, s.beats)

/-- The state with other offers to hold. -/
def State.holding (s : State) (cmd : Option (BitVec 32)) (beat : Option Byte) : State :=
  { s with heldCmd := cmd, heldBeat := beat }

/-- The state in which the command that stands is to be held, and the beat that stands where an edge has seen it. -/
def State.standing (s : State) (seen : Bool) : State := s.holding s.cmds.head? (if seen then s.beats.head? else none)

/-- What a step leaves untransferred is to be held (70_reset_and_hazards.md R290). -/
theorem noteOffers_of_untaken (hoffers : t.offers = s.offers) : noteOffers s t = t.standing true := by
  obtain ⟨hcmds, hbeats⟩ := Prod.mk.inj hoffers
  rw [noteOffers, ← hcmds, ← hbeats, heldAfter_untaken, heldAfter_untaken]
  rfl

/-- Whatever a step did, it notes the offers and changes nothing else afterwards. -/
theorem exists_noteOffers_of_step (h : step s = .next t) : ∃ u, t = noteOffers s u := by
  obtain ⟨-, ⟨-, rfl⟩ | ⟨-, i, s', u, -, -, rfl⟩ | ⟨-, -, u, -, rfl⟩⟩ := step_cases h
  · exact ⟨_, rfl⟩
  · exact ⟨u, rfl⟩
  · exact ⟨u, rfl⟩

theorem State.OffersStand.stepRefusal_eq_none (h : s.OffersStand) (hrst : s.rst = true) : stepRefusal s = none :=
  (stepRefusal_of_rst hrst).mpr ⟨offerHeld_eq_true.mpr h.cmd_held, offerHeld_eq_true.mpr h.beat_held⟩

/-- At a reset edge nothing transfers, so that every offer is to be held (70_reset_and_hazards.md R281, R290). -/
theorem step_of_rst_standing (hr : stepRefusal s = none) (hrst : s.rst = true) :
    step s = .next ((resetEngine s).standing true) :=
  (step_of_rst hr hrst).trans (congrArg Host.Outcome.next (noteOffers_of_untaken rfl))

theorem State.OffersStand.step_of_rst (h : s.OffersStand) (hrst : s.rst = true) :
    step s = .next ((resetEngine s).standing true) :=
  step_of_rst_standing (h.stepRefusal_eq_none hrst) hrst

/-- An offer that is to be held because it stands, stands. -/
theorem State.offersStand_standing (s : State) : (s.standing true).OffersStand where
  cmd_held _ h := h
  beat_held _ h := h

/-! ### Broken offers -/

theorem offerHeld_eq_false {α : Type} [DecidableEq α] {x : α} {offers : List α} (h : offers.head? ≠ some x) :
    offerHeld (some x) offers = false := decide_eq_false h

theorem step_of_refusal {r : Refusal} (h : stepRefusal s = some r) : step s = .refused r := by
  rw [step, h]

section
variable (hready : s.started = true ∨ s.rst = true)
include hready

theorem stepRefusal_of_broken_command (hcmd : offerHeld s.heldCmd s.cmds = false) :
    stepRefusal s = some .unstableCommandOffer := by
  have hmeans : ¬(!s.started && !s.rst) = true := by obtain h | h := hready <;> simp [h]
  rw [stepRefusal, if_neg hmeans, hcmd]
  rfl

theorem stepRefusal_of_broken_beat (hcmd : offerHeld s.heldCmd s.cmds = true)
    (hbeat : offerHeld s.heldBeat s.beats = false) : stepRefusal s = some .unstableBeatOffer := by
  have hmeans : ¬(!s.started && !s.rst) = true := by obtain h | h := hready <;> simp [h]
  rw [stepRefusal, if_neg hmeans, hcmd, hbeat]
  rfl

end

/-- Settles O4: what stands untaken is noted, and a step looks at what was noted before it does anything. -/
theorem offersMustBeHeld : Obligations.OffersMustBeHeld := by
  refine ⟨fun s t hstep => ?_, fun s hready word hheld hbroken => ?_, fun s hready hcmd byte hheld hbroken => ?_⟩
  · obtain ⟨u, rfl⟩ := exists_noteOffers_of_step hstep
    refine ⟨fun word rest hcmds huntaken => ?_, fun byte rest hbeats huntaken => ?_, fun hrst => ?_⟩
    · rw [noteOffers_heldCmd, ← noteOffers_cmds s u, huntaken, heldAfter_untaken, hcmds, List.head?_cons]
    · rw [noteOffers_heldBeat, ← noteOffers_beats s u, huntaken, heldAfter_untaken, hbeats, List.head?_cons]
    · rw [step_of_rst_standing (step_cases hstep).1 hrst] at hstep
      injection hstep with heq
      exact heq ▸ ⟨rfl, rfl⟩
  · exact step_of_refusal (stepRefusal_of_broken_command hready (hheld ▸ offerHeld_eq_false hbroken))
  · exact step_of_refusal
      (stepRefusal_of_broken_beat hready (offerHeld_eq_true.mpr hcmd) (hheld ▸ offerHeld_eq_false hbroken))

/-! ### Reset -/

/-- Settles O1: the registers have their reset values, and in IDLE a step runs the command offered. -/
theorem resetEdgeGivesAFreshEngine : Obligations.ResetEdgeGivesAFreshEngine := by
  intro s hrst hoffers
  refine ⟨_, hoffers.step_of_rst hrst, rfl, rfl, rfl, rfl, rfl, ?_⟩
  rintro word rest u rfl
  exact ⟨rfl, rfl, rfl, fun hstand => (stepRunsTheDecodedCommand _ word rest ⟨hstand, rfl, rfl⟩ rfl rfl).1⟩

/-- Settles O2: in every phase the ready and valid outputs are low, and a second reset edge finds the reset values. -/
theorem resetAbandonsTheCommand : Obligations.ResetAbandonsTheCommand := by
  intro s hrst
  refine ⟨by simp [State.cmdReady, hrst], by simp [State.dinReady, hrst], by simp [State.rspValid, hrst],
    fun hoffers => ?_⟩
  exact ⟨_, hoffers.step_of_rst hrst, rfl, rfl, rfl, rfl, rfl, rfl, rfl, rfl, rfl,
    (State.offersStand_standing _).step_of_rst hrst⟩

/-- Settles O3: before the first reset only a reset edge has a meaning, and it sets the mark of the first reset. -/
theorem nothingRunsBeforeTheFirstReset : Obligations.NothingRunsBeforeTheFirstReset := by
  intro s hstarted
  refine ⟨fun hlow => step_of_refusal ?_, fun hrst hoffers => ⟨_, hoffers.step_of_rst hrst, rfl⟩⟩
  simp [stepRefusal, hstarted, hlow]

/-! ### The response channel -/

theorem clockEdge_of_resp (hphase : s.phase = .resp) :
    clockEdge s = .ok (if s.rspReady then takeResponse s else s) := by
  simp [clockEdge, hphase]

/-- Settles O11: in RESP no command is taken, and the edge moves the response or nothing. -/
theorem responseIsHeldUntilTaken : Obligations.ResponseIsHeldUntilTaken := by
  intro s hduties hresp
  have hstep : step s = afterStep s (outcome (clockEdge s)) :=
    stepElsewhereIsOneClockEdge s hduties (.inl (by simp [hresp]))
  rw [clockEdge_of_resp hresp] at hstep
  refine ⟨by simp [State.rspValid, hresp, hduties.rst_low], fun hwait => ?_, fun hready => ?_⟩
  · rw [if_neg (by simp [hwait])] at hstep
    exact hstep.trans (congrArg Host.Outcome.next (noteOffers_self s))
  · rw [if_pos hready] at hstep
    exact hstep.trans (congrArg Host.Outcome.next (noteOffers_of_untaken rfl))

end Sys2Proof.Machine
end

section
/-! Family 70_reset_and_hazards.md, the channels: which offers a command and a clock edge take (70_reset_and_hazards.md
R292, R293). -/

namespace Sys2Proof.Machine

variable {s t : State}

/-! ### What a clock edge takes -/

theorem acceptCommand_offers (i : Instr) (s : State) : (acceptCommand i s).offers = s.offers := by
  cases i with
  | finish =>
    rw [acceptCommand]
    split <;> rfl
  | update _ | get | illegal _ => rfl

theorem afterBeat_offers (s : State) : (afterBeat s).offers = s.offers := by
  unfold afterBeat
  split <;> rfl

theorem leaveComp_offers (s : State) : (leaveComp s).offers = s.offers := by
  unfold leaveComp
  split <;> rfl

theorem compEdge_offers (s : State) : (compEdge s).offers = s.offers := by
  unfold compEdge
  split
  · rfl
  · rfl
  · exact leaveComp_offers _

theorem padEdge_offers (ht : padEdge s = .ok t) : t.offers = s.offers := by
  cases hstep : s.padStep with
  | a =>
    obtain ⟨u, hu, rfl⟩ := (padEdge_a_eq_ok hstep).mp ht
    obtain ⟨-, rfl⟩ := padMark_eq_ok.mp hu
    split <;> rfl
  | b | c | done =>
    simp only [padEdge, hstep, Except.ok.injEq] at ht
    exact ht ▸ rfl

/-- In IDLE an edge takes the command offered (70_reset_and_hazards.md R292). -/
theorem clockEdge_offers_of_idle (hidle : s.phase = .idle) (ht : clockEdge s = .ok t) :
    t.offers = (s.cmds.tail, s.beats) := by
  cases hcmds : s.cmds with
  | nil =>
    cases (clockEdge_idle_of_no_command hidle hcmds).symm.trans ht
    rw [State.offers, hcmds, List.tail_nil]
  | cons word rest =>
    cases (clockEdge_of_command hidle hcmds).symm.trans ht
    exact acceptCommand_offers _ _

/-- In DATA an edge takes the beat offered while one is owed (70_reset_and_hazards.md R293). -/
theorem clockEdge_offers_of_data (hdata : s.phase = .data) (ht : clockEdge s = .ok t) :
    t.offers = (s.cmds, if s.rem = 0 then s.beats else s.beats.tail) := by
  rw [clockEdge_of_data hdata] at ht
  obtain ⟨hrem, rfl⟩ | ⟨hrem, hbeats, rfl⟩ | ⟨hrem, b, rest, hbeats, ⟨-, rfl⟩ | ⟨-, u, hu, rfl⟩⟩ := dataEdge_eq_ok.mp ht
  · rw [if_pos hrem]
    rfl
  · rw [if_neg hrem, hbeats, List.tail_nil, State.offers, hbeats]
  · rw [if_neg hrem, hbeats]
    rfl
  · obtain ⟨-, rfl⟩ := absorbByte_eq_ok.mp hu
    rw [if_neg hrem, hbeats]
    exact afterBeat_offers _

/-- In every other phase all offers wait (70_reset_and_hazards.md R292, R293). -/
theorem clockEdge_offers_of_other (hidle : s.phase ≠ .idle) (hdata : s.phase ≠ .data) (ht : clockEdge s = .ok t) :
    t.offers = s.offers := by
  cases hphase : s.phase with
  | idle => exact absurd hphase hidle
  | data => exact absurd hphase hdata
  | comp =>
    cases (clockEdge_of_comp hphase).symm.trans ht
    exact compEdge_offers s
  | pad => exact padEdge_offers ((clockEdge_of_pad hphase).symm.trans ht)
  | resp =>
    cases (clockEdge_of_resp hphase).symm.trans ht
    split <;> rfl

/-- What an edge leaves on a channel is the end of what it found there. -/
theorem clockEdge_suffix (ht : clockEdge s = .ok t) : t.cmds <:+ s.cmds ∧ t.beats <:+ s.beats := by
  have hcases : t.offers = (s.cmds.tail, s.beats) ∨ t.offers = (s.cmds, s.beats) ∨
      t.offers = (s.cmds, s.beats.tail) := by
    by_cases hidle : s.phase = .idle
    · exact .inl (clockEdge_offers_of_idle hidle ht)
    · by_cases hdata : s.phase = .data
      · have hoffers := clockEdge_offers_of_data hdata ht
        split at hoffers
        · exact .inr (.inl hoffers)
        · exact .inr (.inr hoffers)
      · exact .inr (.inl (clockEdge_offers_of_other hidle hdata ht))
  simp only [State.offers, Prod.mk.injEq] at hcases
  obtain ⟨hcmds, hbeats⟩ | ⟨hcmds, hbeats⟩ | ⟨hcmds, hbeats⟩ := hcases <;> rw [hcmds, hbeats]
  · exact ⟨List.tail_suffix _, List.suffix_rfl⟩
  · exact ⟨List.suffix_rfl, List.suffix_rfl⟩
  · exact ⟨List.suffix_rfl, List.tail_suffix _⟩

theorem exists_of_clockEdges_succ {k : Nat} (h : clockEdges (k + 1) s = .ok t) :
    ∃ u, clockEdge s = .ok u ∧ clockEdges k u = .ok t := by
  cases hedge : clockEdge s with
  | ok u => exact ⟨u, rfl, clockEdges_succ hedge ▸ h⟩
  | error f =>
    rw [clockEdges, hedge] at h
    cases h

theorem clockEdges_suffix : ∀ {k : Nat} {s t : State}, clockEdges k s = .ok t →
    t.cmds <:+ s.cmds ∧ t.beats <:+ s.beats
  | 0, s, t, h => by
    cases h
    exact ⟨List.suffix_rfl, List.suffix_rfl⟩
  | k + 1, s, t, h => by
    obtain ⟨u, hedge, h⟩ := exists_of_clockEdges_succ h
    exact ⟨(clockEdges_suffix h).1.trans (clockEdge_suffix hedge).1,
      (clockEdges_suffix h).2.trans (clockEdge_suffix hedge).2⟩

/-! ### What a command takes -/

/-- Only an UPDATE takes beats, and no command takes a command. -/
theorem exec_offers {i : Instr} (hupdate : ∀ len, i ≠ .update len) (ht : exec i s = .next t) : t.offers = s.offers := by
  cases i with
  | update len => exact absurd rfl (hupdate len)
  | finish =>
    cases hfin : s.fin with
    | true =>
      cases (execFinish_of_fin hfin).symm.trans ht
      rfl
    | false =>
      obtain ⟨u, hu, rfl⟩ := (execFinish_eq_next hfin).mp ht
      obtain ⟨-, -, -, -, -, -, -, hcmds, hbeats, -⟩ := padMessage_frame hu
      exact Prod.ext hcmds hbeats
  | get =>
    cases (execGet_eq s).symm.trans ht
    rfl
  | illegal word =>
    cases ht
    rfl

theorem exec_cmds {i : Instr} (ht : exec i s = .next t) : t.cmds = s.cmds := by
  by_cases hupdate : ∃ len, i = .update len
  · obtain ⟨len, rfl⟩ := hupdate
    exact (exec_update_ends ht).cmds
  · exact congrArg Prod.fst (exec_offers (not_exists.mp hupdate) ht)

/-- Settles O13: what the command taken leaves on the channels, and what the clock edge leaves in each phase. -/
theorem offersWaitOutsideTheirPhase : Obligations.OffersWaitOutsideTheirPhase := by
  intro s t hlow hstep
  obtain ⟨-, ⟨hrst, -⟩ | ⟨-, i, s', u, hnext, hu, rfl⟩ | ⟨-, hnone, u, hu, rfl⟩⟩ := step_cases hstep
  · exact absurd hrst (by simp [hlow])
  · obtain ⟨hidle, word, rest, hcmds, rfl, rfl⟩ := nextCommand_eq_some.mp hnext
    have htaken : u.cmds = s.cmds.tail := by
      rw [hcmds]
      exact exec_cmds hu
    have hother (h : ∀ len, decode word ≠ .update len) : u.beats = s.beats :=
      congrArg Prod.snd (exec_offers h hu)
    have hupdate (len) (h : decode word = .update len) : u.beats = s.beats.drop len.toNat := by
      rw [h] at hu
      exact (exec_update_ends hu).beats
    refine ⟨fun h => absurd hidle h, fun _ => htaken, fun h => absurd hidle h,
      fun hdata => (nomatch hidle.symm.trans hdata), fun hdata => (nomatch hidle.symm.trans hdata),
      fun _ hnone => (nomatch hcmds.symm.trans hnone), ?_, ?_⟩
    · rintro - word' rest' hcmds' hnot
      cases hcmds.symm.trans hcmds'
      exact hother hnot
    · rintro - word' rest' len hcmds' hdecode
      cases hcmds.symm.trans hcmds'
      exact hupdate len hdecode
  · have hwait : s.phase = .idle → s.cmds = [] := fun hidle => (nextCommand_eq_none.mp hnone).resolve_left (· hidle)
    by_cases hidle : s.phase = .idle
    · obtain ⟨hcmds, hbeats⟩ := Prod.mk.inj (clockEdge_offers_of_idle hidle hu)
      simp [hidle, hwait hidle, hcmds, hbeats]
    · by_cases hdata : s.phase = .data
      · obtain ⟨hcmds, hbeats⟩ := Prod.mk.inj (clockEdge_offers_of_data hdata hu)
        simp +contextual [hdata, hcmds, hbeats]
      · obtain ⟨hcmds, hbeats⟩ := Prod.mk.inj (clockEdge_offers_of_other hidle hdata hu)
        simp [hidle, hdata, hcmds, hbeats]

end Sys2Proof.Machine
end

section
/-! Family 70_reset_and_hazards.md, bounds: the edges until a command is answered (70_reset_and_hazards.md R300,
R301). -/

namespace Sys2Proof.Machine

variable {s t : State}

theorem phase_of_execFinish (ht : exec .finish s = .next t) : t.phase = .resp := by
  cases hfin : s.fin with
  | true =>
    cases (execFinish_of_fin hfin).symm.trans ht
    rfl
  | false =>
    obtain ⟨u, -, rfl⟩ := (execFinish_eq_next hfin).mp ht
    rfl

/-- A first FINISH takes 86 or 169 edges (41_finalize.md R182). -/
theorem exists_clockEdges_first_finish {rest : List (BitVec 32)} (hidle : s.phase = .idle) (hfin : s.fin = false)
    (hlt : s.fill.toNat < 64) (hcmds : s.cmds = 0x40000000 :: rest) :
    ∃ k t, k + 2 ≤ 169 ∧ exec .finish { s with cmds := rest } = .next t ∧ clockEdges (k + 2) s = .ok t := by
  obtain ⟨t, ht, hone, htwo⟩ := sequencerRefinesFinish s rest hidle hfin hlt hcmds
  by_cases hroom : s.fill.toNat ≤ 55
  · exact ⟨84, t, by decide, ht, hone hroom⟩
  · exact ⟨167, t, le_rfl, ht, htwo (by omega)⟩

/-- A FINISH is answered in 169 edges at most (70_reset_and_hazards.md R301). -/
theorem exists_clockEdges_finish {rest : List (BitVec 32)} (hidle : s.phase = .idle) (hlt : s.fill.toNat < 64)
    (hcmds : s.cmds = 0x40000000 :: rest) :
    ∃ k t, k ≤ 169 ∧ exec .finish { s with cmds := rest } = .next t ∧ clockEdges k s = .ok t := by
  obtain hfin | hfin := Bool.eq_false_or_eq_true s.fin
  · have hdecode : decode 0x40000000 = .finish := by decide
    obtain ⟨t, ht, hedges⟩ :=
      (sequencerRefinesTheOtherCommands s _ rest hidle hcmds).1 (.inr (.inr ⟨hdecode, hfin⟩))
    exact ⟨1, t, by decide, hdecode ▸ ht, hedges⟩
  · obtain ⟨k, h⟩ := exists_clockEdges_first_finish hidle hfin hlt hcmds
    exact ⟨k + 2, h⟩

/-- An UPDATE of N bytes fills at most ceil(N/64) blocks from any FILL below 64 (40_update.md R140). -/
theorem exists_clockEdges_update {word : BitVec 32} {rest : List (BitVec 32)} {len : BitVec 30}
    (hidle : s.phase = .idle) (hlt : s.fill.toNat < 64) (hcmds : s.cmds = word :: rest)
    (hdecode : decode word = .update len) (hbeats : len.toNat ≤ s.beats.length) :
    ∃ k t, k ≤ len.toNat + 82 * ((len.toNat + 63) / 64) + 1 ∧ exec (.update len) { s with cmds := rest } = .next t ∧
      clockEdges k s = .ok t := by
  obtain hfin | hfin := Bool.eq_false_or_eq_true s.fin
  · obtain ⟨t, ht, hedges⟩ := (sequencerRefinesTheOtherCommands s _ rest hidle hcmds).2 len hdecode hfin hbeats
    exact ⟨len.toNat + 1, t, by omega, hdecode ▸ ht, hedges⟩
  · have hword : word = encode (.update len) := by rw [← hdecode, encode_decode]
    obtain ⟨t, ht, hedges⟩ := sequencerRefinesUpdate s len rest hidle hfin hlt (hword ▸ hcmds) hbeats
    exact ⟨_, t, by omega, ht, hedges⟩

/-- Settles O53: by the command, from the edge counts of its refinement. -/
theorem commandsCompleteInBoundedEdges : Obligations.CommandsCompleteInBoundedEdges := by
  rintro s word rest bound hinv hidle hcmds hbeats rfl
  have hlt : s.fill.toNat < 64 := hinv.fill_lt (by simp [hidle])
  cases hdecode : decode word with
  | update len =>
    obtain ⟨k, t, hk, ht, hedges⟩ := exists_clockEdges_update hidle hlt hcmds hdecode (hbeats len hdecode)
    exact ⟨k, t, hk, hedges, (exec_update_ends ht).phase_resp (hbeats len hdecode)⟩
  | finish =>
    obtain ⟨k, t, hk, ht, hedges⟩ := exists_clockEdges_finish hidle hlt (eq_of_decode_eq_finish hdecode ▸ hcmds)
    exact ⟨k, t, hk, hedges, phase_of_execFinish ht⟩
  | get | illegal _ =>
    refine ⟨1, _, le_rfl, (clockEdges_one s).trans (clockEdge_of_command hidle hcmds), ?_⟩
    rw [hdecode]
    rfl

end Sys2Proof.Machine
end

section
/-! Family 70_reset_and_hazards.md, the offers that a command's edges leave standing: noting at every edge holds what
the command's step holds (70_reset_and_hazards.md R290, 00_scope.md R14). -/

namespace Sys2Proof.Machine

variable {s t : State}

/-! ### Noting at a step of several edges -/

/-- A step that took beats has an edge after the one that took its command. -/
theorem noteOffers_of_beats_taken (htaken : t.beats.length < s.beats.length) :
    noteOffers s t = t.standing (compressesAfterBeats s t) := by
  have hseen : outlastsAcceptance s t = true := by simp [outlastsAcceptance, htaken]
  rw [noteOffers, hseen, heldAfter_seen]
  cases compressesAfterBeats s t with
  | true => rw [heldAfter_seen]; rfl
  | false => rw [heldAfter_taken htaken]; rfl

/-- A step that finalised has edges after the one that took its command. -/
theorem noteOffers_of_finalized (hfin : s.fin = false) (hset : t.fin = true) (hbeats : t.beats = s.beats) :
    noteOffers s t = t.standing true := by
  have hseen : outlastsAcceptance s t = true := by simp [outlastsAcceptance, hfin, hset]
  rw [noteOffers, hseen, heldAfter_seen, hbeats, heldAfter_untaken, ← hbeats]
  rfl

/-! ### Noting at every edge -/

theorem dataEdge_holding (ht : dataEdge s = .ok t) (cmd : Option (BitVec 32)) (beat : Option Byte) :
    dataEdge (s.holding cmd beat) = .ok (t.holding cmd beat) := by
  rw [dataEdge_eq_ok] at ht ⊢
  obtain ⟨hrem, rfl⟩ | ⟨hrem, hbeats, rfl⟩ | ⟨hrem, b, rest, hbeats, ⟨hdrop, rfl⟩ | ⟨hdrop, u, hu, rfl⟩⟩ := ht
  · exact .inl ⟨hrem, rfl⟩
  · exact .inr (.inl ⟨hrem, hbeats, rfl⟩)
  · exact .inr (.inr ⟨hrem, b, rest, hbeats, .inl ⟨hdrop, rfl⟩⟩)
  · obtain ⟨hlt, rfl⟩ := absorbByte_eq_ok.mp hu
    refine .inr (.inr ⟨hrem, b, rest, hbeats, .inr ⟨hdrop, _, absorbByte_eq_ok.mpr ⟨hlt, rfl⟩, ?_⟩⟩)
    exact apply_ite (State.holding · cmd beat) _ _ _

theorem leaveComp_holding (s : State) (cmd : Option (BitVec 32)) (beat : Option Byte) :
    leaveComp (s.holding cmd beat) = (leaveComp s).holding cmd beat := by
  simp only [leaveComp, State.holding]
  split <;> rfl

theorem compEdge_holding (s : State) (cmd : Option (BitVec 32)) (beat : Option Byte) :
    compEdge (s.holding cmd beat) = (compEdge s).holding cmd beat := by
  simp only [compEdge, State.holding]
  split
  · rfl
  · rfl
  · exact leaveComp_holding (endCompression (feedForward s.h s.d) s) cmd beat

theorem padEdge_holding (ht : padEdge s = .ok t) (cmd : Option (BitVec 32)) (beat : Option Byte) :
    padEdge (s.holding cmd beat) = .ok (t.holding cmd beat) := by
  cases hstep : s.padStep with
  | a =>
    obtain ⟨u, hu, rfl⟩ := (padEdge_a_eq_ok hstep).mp ht
    obtain ⟨hlt, rfl⟩ := padMark_eq_ok.mp hu
    refine (padEdge_a_eq_ok (s := s.holding cmd beat) hstep).mpr ⟨_, padMark_eq_ok.mpr ⟨hlt, rfl⟩, ?_⟩
    exact apply_ite (State.holding · cmd beat) _ _ _
  | b | c | done =>
    have hstep' : (s.holding cmd beat).padStep = _ := hstep
    simp only [padEdge, hstep, Except.ok.injEq] at ht
    simp only [padEdge, hstep', ← ht]
    rfl

theorem acceptCommand_holding (i : Instr) (s : State) (cmd : Option (BitVec 32)) (beat : Option Byte) :
    acceptCommand i (s.holding cmd beat) = (acceptCommand i s).holding cmd beat := by
  cases i with
  | finish =>
    rw [acceptCommand, acceptCommand, apply_ite (State.holding · cmd beat)]
    rfl
  | update _ | get | illegal _ => rfl

/-- An edge neither reads nor writes the offers to hold. -/
theorem clockEdge_holding (ht : clockEdge s = .ok t) (cmd : Option (BitVec 32)) (beat : Option Byte) :
    clockEdge (s.holding cmd beat) = .ok (t.holding cmd beat) := by
  cases hphase : s.phase with
  | idle =>
    cases hcmds : s.cmds with
    | nil =>
      cases (clockEdge_idle_of_no_command hphase hcmds).symm.trans ht
      exact clockEdge_idle_of_no_command (s := s.holding cmd beat) hphase hcmds
    | cons word rest =>
      cases (clockEdge_of_command hphase hcmds).symm.trans ht
      rw [clockEdge_of_command (s := s.holding cmd beat) hphase hcmds, ← acceptCommand_holding]
      rfl
  | data =>
    rw [clockEdge_of_data hphase] at ht
    exact (clockEdge_of_data (s := s.holding cmd beat) hphase).trans (dataEdge_holding ht cmd beat)
  | comp =>
    cases (clockEdge_of_comp hphase).symm.trans ht
    rw [← compEdge_holding]
    exact clockEdge_of_comp (s := s.holding cmd beat) hphase
  | pad =>
    rw [clockEdge_of_pad hphase] at ht
    exact (clockEdge_of_pad (s := s.holding cmd beat) hphase).trans (padEdge_holding ht cmd beat)
  | resp =>
    cases (clockEdge_of_resp hphase).symm.trans ht
    rw [clockEdge_of_resp (s := s.holding cmd beat) hphase, apply_ite (State.holding · cmd beat)]
    rfl

theorem notedEdges_succ {k : Nat} (h : clockEdge s = .ok t) :
    notedEdges (k + 1) s = notedEdges k (noteOffers s t) := by
  simp [notedEdges, h]

/-- Each edge notes the offers anew. -/
theorem notedEdges_holding {k : Nat} (h : notedEdges (k + 1) s = .ok t) (cmd : Option (BitVec 32))
    (beat : Option Byte) : notedEdges (k + 1) (s.holding cmd beat) = .ok t := by
  cases hedge : clockEdge s with
  | ok u =>
    rw [notedEdges_succ hedge] at h
    exact (notedEdges_succ (clockEdge_holding hedge cmd beat)).trans h
  | error f =>
    rw [notedEdges, hedge] at h
    cases h

/-- What the first edges noted is forgotten at the next. -/
theorem notedEdges_of_clockEdges : ∀ {j k : Nat} {s t u : State}, clockEdges j s = .ok t →
    notedEdges (k + 1) t = .ok u → notedEdges (j + (k + 1)) s = .ok u
  | 0, k, s, t, u, ht, hu => by
    cases ht
    rwa [Nat.zero_add]
  | j + 1, k, s, t, u, ht, hu => by
    obtain ⟨v, hedge, ht⟩ := exists_of_clockEdges_succ ht
    rw [Nat.add_right_comm, notedEdges_succ hedge]
    exact notedEdges_holding (k := j + k) (notedEdges_of_clockEdges (k := k) ht hu) _ _

theorem notedEdges_one (ht : clockEdge s = .ok t) : notedEdges 1 s = .ok (noteOffers s t) := notedEdges_succ ht

/-- Where the last of some edges leaves every offer standing that the first found, all of them are to be held. -/
theorem notedEdges_of_untaken : ∀ {k : Nat} {s : State}, clockEdges (k + 1) s = .ok t → t.offers = s.offers →
    notedEdges (k + 1) s = .ok (t.standing true)
  | 0, s, h, hoffers => by
    rw [clockEdges_one] at h
    rw [notedEdges_one h, noteOffers_of_untaken hoffers]
  | k + 1, s, h, hoffers => by
    obtain ⟨u, hedge, h⟩ := exists_of_clockEdges_succ h
    obtain ⟨hcmds, hbeats⟩ := clockEdge_suffix hedge
    obtain ⟨hcmds', hbeats'⟩ := clockEdges_suffix h
    obtain ⟨heqcmds, heqbeats⟩ := Prod.mk.inj hoffers
    have hstand : t.offers = u.offers :=
      Prod.ext (hcmds'.eq_of_length_le (heqcmds ▸ hcmds.length_le))
        (hbeats'.eq_of_length_le (heqbeats ▸ hbeats.length_le))
    rw [Nat.add_comm (k + 1) 1]
    exact notedEdges_of_clockEdges ((clockEdges_one s).trans hedge) (notedEdges_of_untaken h hstand)

/-! ### The beats of an UPDATE, edge by edge -/

/-- FILL went around the block at the last byte, so that a block compression came after it (40_update.md R140). -/
def State.blockDone (s : State) : Bool := !s.fin && decide (s.fill = 0)

theorem compressesAfterBeats_of_idle (hidle : s.phase = .idle) (t : State) :
    compressesAfterBeats s t = t.blockDone := by
  rw [compressesAfterBeats, hidle]
  rfl

theorem absorb_fin_cmds {b : Byte} (ht : absorb b s = .ok t) : t.fin = s.fin ∧ t.cmds = s.cmds := by
  obtain ⟨-, rfl⟩ := absorb_eq_ok.mp ht
  simp [compressIfFull_frame]

/-- An edge that takes a beat has not seen the beat behind it. -/
theorem notedEdges_beat (hrem : s.rem ≠ 0) (hedge : clockEdge (dataOrResp s) = .ok t)
    (htaken : t.beats.length < s.beats.length) : notedEdges 1 (dataOrResp s) = .ok (t.standing false) := by
  have hphase : (dataOrResp s).phase = .data := if_neg hrem
  rw [notedEdges_one hedge, noteOffers_of_beats_taken (s := dataOrResp s) htaken, compressesAfterBeats, hphase]
  rfl

section
variable {b : Byte} {rest : List Byte} {u : State} (hrem : s.rem ≠ 0) (hbeats : s.beats = b :: rest)
include hrem hbeats

/-- Behind a beat that does not fill the block nothing has been seen. -/
theorem notedEdges_absorb_of_room (hdrop : s.drop = false) (hroom : s.fill.toNat < 63)
    (hu : absorb b (takeBeat rest s) = .ok u) : notedEdges 1 (dataOrResp s) = .ok ((dataOrResp u).standing false) := by
  have hedge := clockEdges_absorb_of_room hrem hbeats hdrop hroom hu
  rw [clockEdges_one] at hedge
  have hubeats : u.beats = rest := absorb_beats hu
  exact notedEdges_beat hrem hedge (by simp [hubeats, hbeats])

/-- The edges of a block compression see what stands behind the beat that filled the block. -/
theorem notedEdges_absorb_of_last (hdrop : s.drop = false) (hlast : s.fill.toNat = 63)
    (hu : absorb b (takeBeat rest s) = .ok u) : notedEdges 83 (dataOrResp s) = .ok ((dataOrResp u).standing true) := by
  obtain ⟨v, hedge, hedges⟩ := exists_of_clockEdges_succ (clockEdges_absorb_of_last hrem hbeats hdrop hlast hu)
  have hv : v.offers = (s.cmds, rest) := by
    rw [clockEdge_offers_of_data (if_neg hrem) hedge, dataOrResp_rem, if_neg hrem, dataOrResp_beats, hbeats]
    rfl
  have hstand : (dataOrResp u).offers = v.offers := hv ▸ Prod.ext (absorb_fin_cmds hu).2 (absorb_beats hu)
  exact notedEdges_of_clockEdges ((clockEdges_one _).trans hedge) (notedEdges_of_untaken hedges hstand)

end

/-- The edges of one beat: what they leave is what collecting the beat leaves, with the offers they have seen noted. -/
theorem exists_notedEdges_beat {b : Byte} {rest : List Byte} (hrem : s.rem ≠ 0) (hbeats : s.beats = b :: rest)
    (hlt : s.fill.toNat < 64) (hdrop : s.drop = s.fin) :
    ∃ k u, collectBeats (b :: rest) s = collectBeats rest u ∧ u.beats = rest ∧ u.fill.toNat < 64 ∧ u.drop = u.fin ∧
      clockEdges (k + 1) (dataOrResp s) = .ok (dataOrResp u) ∧
      notedEdges (k + 1) (dataOrResp s) = .ok ((dataOrResp u).standing u.blockDone) := by
  obtain hfin | hfin := Bool.eq_false_or_eq_true s.fin
  · have hkind : s.drop = true := hdrop.trans hfin
    have hedge := clockEdge_of_dropped hrem hbeats hkind
    refine ⟨0, takeBeat rest s, collectBeats_dropped hrem hkind, rfl, hlt, hdrop,
      (clockEdges_one _).trans hedge, ?_⟩
    simpa [State.blockDone, hfin] using notedEdges_beat hrem hedge (by simp [hbeats])
  · have hkind : s.drop = false := hdrop.trans hfin
    obtain ⟨u, hu⟩ := exists_absorb_eq_ok (s := takeBeat rest s) b hlt
    have hcollect := collectBeats_absorbed hrem hkind hu
    obtain ⟨-, hfill⟩ := absorb_fill hu
    rw [takeBeat_fill] at hfill
    have hufin : u.fin = s.fin := (absorb_fin_cmds hu).1
    have hudrop : u.drop = u.fin := (absorb_rem_drop hu).2.trans (hdrop.trans hufin.symm)
    have hult : u.fill.toNat < 64 := by omega
    by_cases hlast : s.fill.toNat = 63
    · refine ⟨82, u, hcollect, absorb_beats hu, hult, hudrop,
        clockEdges_absorb_of_last hrem hbeats hkind hlast hu, ?_⟩
      have hdone : u.blockDone = true := by
        have hempty : u.fill = 0 := by bv_omega
        simp [State.blockDone, hufin, hfin, hempty]
      rw [hdone]
      exact notedEdges_absorb_of_last hrem hbeats hkind hlast hu
    · have hroom : s.fill.toNat < 63 := by omega
      refine ⟨0, u, hcollect, absorb_beats hu, hult, hudrop,
        clockEdges_absorb_of_room hrem hbeats hkind hroom hu, ?_⟩
      have hnot : u.blockDone = false := by
        have hbegun : u.fill ≠ 0#7 := by bv_omega
        simp [State.blockDone, hbegun]
      rw [hnot]
      exact notedEdges_absorb_of_room hrem hbeats hkind hroom hu

/-- The edges of all beats offered, or of as many as are owed. -/
theorem exists_notedEdges_collectBeats : ∀ (bs : List Byte) {s : State}, s.beats = bs → s.fill.toNat < 64 →
    s.drop = s.fin → ∃ t, collectBeats bs s = .ok t ∧ (t = s ∨ (t.beats.length < bs.length ∧
      ∃ k, notedEdges (k + 1) (dataOrResp s) = .ok ((dataOrResp t).standing t.blockDone)))
  | [], s, _, _, _ => ⟨s, rfl, .inl rfl⟩
  | b :: rest, s, hbeats, hlt, hdrop => by
    by_cases hrem : s.rem = 0
    · exact ⟨s, collectBeats_none_owed hrem, .inl rfl⟩
    · obtain ⟨j, u, hcollect, hubeats, hult, hudrop, hedges, hnoted⟩ := exists_notedEdges_beat hrem hbeats hlt hdrop
      obtain ⟨t, ht, rfl | ⟨hfewer, k, hk⟩⟩ := exists_notedEdges_collectBeats rest hubeats hult hudrop
      · exact ⟨t, hcollect.trans ht, .inr ⟨by simp [hubeats], j, hnoted⟩⟩
      · exact ⟨t, hcollect.trans ht, .inr ⟨by simp; omega, _, notedEdges_of_clockEdges (k := k) hedges hk⟩⟩

/-! ### Every command -/

section
variable {word : BitVec 32} {rest : List (BitVec 32)} (hidle : s.phase = .idle) (hcmds : s.cmds = word :: rest)
include hidle hcmds

/-- Of a command's edges the one that accepts it is the first, and another comes last. -/
theorem notedEdges_of_accept {k : Nat}
    (h : notedEdges (k + 1) (acceptCommand (decode word) { s with cmds := rest }) = .ok t) :
    notedEdges (1 + (k + 1)) s = .ok t :=
  notedEdges_of_clockEdges ((clockEdges_one s).trans (clockEdge_of_command hidle hcmds)) h

/-- A command that is done when it is accepted has one edge. -/
theorem exists_notedEdges_at_once
    (h : exec (decode word) { s with cmds := rest } = .next (acceptCommand (decode word) { s with cmds := rest })) :
    ∃ k t, exec (decode word) { s with cmds := rest } = .next t ∧ notedEdges k s = .ok (noteOffers s t) :=
  ⟨1, _, h, notedEdges_one (clockEdge_of_command hidle hcmds)⟩

/-- An UPDATE that takes beats ends with the edges of the last. -/
theorem exists_notedEdges_update {len : BitVec 30} (hlt : s.fill.toNat < 64) (hdecode : decode word = .update len) :
    ∃ k t, exec (decode word) { s with cmds := rest } = .next t ∧ notedEdges k s = .ok (noteOffers s t) := by
  obtain ⟨t, ht, rfl | ⟨hfewer, k, hk⟩⟩ :=
    exists_notedEdges_collectBeats s.beats (s := latchUpdate len { s with cmds := rest }) rfl hlt rfl
  all_goals have hexec := (execUpdate_eq_next (s := { s with cmds := rest })).mpr ⟨_, ht, rfl⟩
  · refine exists_notedEdges_at_once hidle hcmds ?_
    rw [hdecode]
    exact hexec
  · refine ⟨_, dataOrResp t, hdecode ▸ hexec, notedEdges_of_accept hidle hcmds (k := k) ?_⟩
    rw [hdecode, noteOffers_of_beats_taken (s := s) (t := dataOrResp t) hfewer, compressesAfterBeats_of_idle hidle]
    exact hk

/-- The edges of a first FINISH behind the one that accepts it take no offer. -/
theorem exists_notedEdges_first_finish (hlt : s.fill.toNat < 64) (hfin : s.fin = false)
    (hdecode : decode word = .finish) :
    ∃ k t, exec (decode word) { s with cmds := rest } = .next t ∧ notedEdges k s = .ok (noteOffers s t) := by
  obtain ⟨k, t, -, ht, hedges⟩ :=
    exists_clockEdges_first_finish hidle hfin hlt (eq_of_decode_eq_finish hdecode ▸ hcmds)
  obtain ⟨u, hu, hedges⟩ := exists_of_clockEdges_succ hedges
  cases (clockEdge_of_command hidle hcmds).symm.trans hu
  have hoffers : t.offers = State.offers { s with cmds := rest } := exec_offers (fun _ => Instr.noConfusion) ht
  have hset : t.fin = true := by
    obtain ⟨u, -, rfl⟩ := (execFinish_eq_next (s := { s with cmds := rest }) hfin).mp ht
    rfl
  refine ⟨_, t, hdecode ▸ ht, notedEdges_of_accept hidle hcmds (k := k) ?_⟩
  rw [noteOffers_of_finalized hfin hset (congrArg Prod.snd hoffers :)]
  exact notedEdges_of_untaken hedges (hoffers.trans (acceptCommand_offers _ _).symm)

end

/-- Settles O55: by the command, and by whether it is done at the edge that accepts it. -/
theorem stepHoldsWhatItsEdgesLeaveStanding : Obligations.StepHoldsWhatItsEdgesLeaveStanding := by
  intro s word rest hduties hidle hlt hcmds
  have hnoted : ∃ k t, exec (decode word) { s with cmds := rest } = .next t ∧
      notedEdges k s = .ok (noteOffers s t) := by
    have hat_once := exists_notedEdges_at_once hidle hcmds
    cases hdecode : decode word with
    | update len => exact hdecode ▸ exists_notedEdges_update hidle hcmds hlt hdecode
    | finish =>
      obtain hfin | hfin := Bool.eq_false_or_eq_true s.fin
      · exact hdecode ▸ hat_once (exec_eq_acceptCommand (s := { s with cmds := rest }) (.inr (.inr ⟨hdecode, hfin⟩)))
      · exact hdecode ▸ exists_notedEdges_first_finish hidle hcmds hlt hfin hdecode
    | get => exact hdecode ▸ hat_once (exec_eq_acceptCommand (.inl hdecode))
    | illegal w => exact hdecode ▸ hat_once (exec_eq_acceptCommand (.inr (.inl ⟨w, hdecode⟩)))
  obtain ⟨k, t, ht, hk⟩ := hnoted
  exact ⟨k, _, hk, (stepRunsTheDecodedCommand s word rest hduties hidle hcmds).2 t ht⟩

end Sys2Proof.Machine
end

section
/-! Family other, written-out words: a word decodes to a command just where that command is well-formed and encodes as
the word (30_encoding.md R104, R109, 95_test_vectors.md V-DEC-1 to V-DEC-11). -/

namespace Sys2Proof

theorem decode_eq_iff {word : BitVec 32} {i : Instr} : decode word = i ↔ i.wf = true ∧ encode i = word := by
  constructor
  · rintro rfl
    exact ⟨decode_wf word, encode_decode word⟩
  · rintro ⟨hwf, rfl⟩
    exact decode_encode hwf

/-- Settles O5: each command is well-formed, an illegal word by R110, and encodes as its word. -/
theorem writtenOutWordsDecode : Obligations.WrittenOutWordsDecode := by
  unfold Obligations.WrittenOutWordsDecode
  simp only [decode_eq_iff]
  decide

end Sys2Proof
end
